-- ==== Sys2Proof/Config.lean ====
section
/-! DEFINITION. The parameters the spec fixes (00_scope.md R5). None is configurable and the spec
leaves no value open (R6), so there is no free value here. -/

namespace Sys2Proof.Config

/-- R5 `BLOCK_BYTES`: bytes in one input block. -/
abbrev blockBytes : Nat := 16
/-- R5 `DIGEST_BYTES`: bytes in the digest. -/
abbrev digestBytes : Nat := 16
/-- R5 `X_BYTES`: bytes in the working buffer. -/
abbrev xBytes : Nat := 48
/-- R5 `C_BYTES`: bytes in the checksum. -/
abbrev cBytes : Nat := 16
/-- R5 `S_ENTRIES`: entries in the substitution table. -/
abbrev sEntries : Nat := 256
/-- R5 `ROUNDS`: rounds of the mixing loop in one compression. -/
abbrev rounds : Nat := 18
/-- R5 `SNAPSHOT_BYTES`: bytes in a state snapshot. -/
abbrev snapshotBytes : Nat := 64
/-- R5 `MAX_REMAINING`: the largest count of leftover bytes FINALIZE takes. -/
abbrev maxRemaining : Nat := 15
/-- R5 `ALG_NAME`: the algorithm's name, with no effect on behaviour (R1, R26). -/
def algName : String := "Md2"

end Sys2Proof.Config
end

