-- ==== Sys2Proof/Word.lean ====
section
/-! DEFINITION. The byte, and the sequences of bytes the engine holds and exchanges
(00_scope.md R5, R7, R8). Sizes are written as numerals; `Tests/Slice0.lean` ties them to Config. -/

namespace Sys2Proof

/-- R7: every stored and every transferred value is a byte, bit 7 the most significant. -/
abbrev Byte := BitVec 8

/-- R42: a command or response packet is a finite sequence of bytes, first byte first. -/
abbrev Packet := List Byte

/-- R16: the working buffer, always exactly 48 bytes. -/
abbrev Buffer := Vector Byte 48

/-- R19: the checksum, always exactly 16 bytes. -/
abbrev Checksum := Vector Byte 16

/-- R5, R46: one input block, 16 bytes. -/
abbrev Block := Vector Byte 16

end Sys2Proof
end

