-- ==== Sys2Proof/Syntax.lean ====
section
/-! DEFINITION. The five commands of the opcode map (30_encoding.md R44) with their operands
(R46 to R48). -/

namespace Sys2Proof

/-- One constructor per row of the opcode map R44. -/
inductive Instr where
  /-- RESET (R75): no operand. -/
  | reset
  /-- COMPRESS (R59): one block of exactly 16 bytes (R46). A block of another size is no COMPRESS
  (R54), and this type cannot express one. -/
  | compress (block : Block)
  /-- FINALIZE (R67): the remaining input, 0 to 15 bytes (R47); `Instr.wf` states the bound. -/
  | finalize (remaining : List Byte)
  /-- SAVE (R78): no operand. -/
  | save
  /-- LOAD (R81): the candidate snapshot, of any length (R48). -/
  | load (snapshot : List Byte)
  deriving DecidableEq, Repr

end Sys2Proof
end

