-- ==== Sys2Proof/WellFormed.lean ====
section
/-! DEFINITION. Which terms of `Instr` are commands of the engine (30_encoding.md R45). -/

namespace Sys2Proof

/-- R45: the payload lengths that decode to the command. COMPRESS's 16 bytes are in the type of its
operand; LOAD takes every length. -/
def Instr.wf : Instr → Bool
  | .reset => true
  | .compress _ => true
  | .finalize R => decide (R.length ≤ Config.maxRemaining)
  | .save => true
  | .load _ => true

end Sys2Proof
end

