-- ==== Sys2Proof/Decode.lean ====
section
/-! DEFINITION. The decoder of 30_encoding.md R52, total on every byte sequence, and the encoder
written from the same tables (R43 to R48). -/

namespace Sys2Proof

/-- Why a packet is none of the five commands: the five numbered causes of 60_exceptions.md R88.
All of them lead to the one error ILLEGAL_COMMAND. -/
inductive Illegal where
  /-- Cause 1: the packet is empty. -/
  | emptyPacket
  /-- Cause 2: the opcode byte is 0x00 or in 0x06 to 0xFF (R53). -/
  | reservedOpcode (op : Byte)
  /-- Cause 3: RESET or SAVE with a payload that is not empty. -/
  | unexpectedPayload (op : Byte)
  /-- Cause 4: COMPRESS with a payload that is not 16 bytes. -/
  | compressLength (n : Nat)
  /-- Cause 5: FINALIZE with a payload of 16 bytes or more. -/
  | finalizeLength (n : Nat)
  deriving DecidableEq, Repr

/-- R44: the opcode byte of RESET. -/
abbrev opReset : Byte := 0x01
/-- R44: the opcode byte of COMPRESS. -/
abbrev opCompress : Byte := 0x02
/-- R44: the opcode byte of FINALIZE. -/
abbrev opFinalize : Byte := 0x03
/-- R44: the opcode byte of SAVE. -/
abbrev opSave : Byte := 0x04
/-- R44: the opcode byte of LOAD. -/
abbrev opLoad : Byte := 0x05

/-- R52 for a packet with the opcode byte `op` and the payload `Q`: opcode first, length second. -/
def decodeCommand (op : Byte) (Q : List Byte) : Except Illegal Instr :=
  if op = opReset then
    if Q.length = 0 then .ok .reset else .error (.unexpectedPayload op)
  else if op = opCompress then
    if h : Q.length = 16 then .ok (.compress (Vector.mk Q.toArray h))
    else .error (.compressLength Q.length)
  else if op = opFinalize then
    if Q.length ≤ Config.maxRemaining then .ok (.finalize Q) else .error (.finalizeLength Q.length)
  else if op = opSave then
    if Q.length = 0 then .ok .save else .error (.unexpectedPayload op)
  else if op = opLoad then .ok (.load Q)
  else .error (.reservedOpcode op)

/-- R52: the decoder. It reads no state. -/
def decode : Packet → Except Illegal Instr
  | [] => .error .emptyPacket
  | op :: Q => decodeCommand op Q

/-- R44: the opcode byte of a command. -/
def Instr.opcode : Instr → Byte
  | .reset => opReset
  | .compress _ => opCompress
  | .finalize _ => opFinalize
  | .save => opSave
  | .load _ => opLoad

/-- R46 to R48: the payload of a command, first byte of the operand first. -/
def Instr.payload : Instr → List Byte
  | .reset => []
  | .compress B => B.toList
  | .finalize R => R
  | .save => []
  | .load Q => Q

/-- R43: the packet of a command, the opcode byte and then the payload. -/
def encode (i : Instr) : Packet := i.opcode :: i.payload

/-- The first `(nbits + 7) / 8` bytes of an instruction, numbered as the opcode table numbers bits:
the opcode byte is bits 7 to 0 and later bytes count on from there. -/
def tableWordBytes (nbits w : Nat) : List Byte :=
  (List.range ((nbits + 7) / 8)).map fun k => BitVec.ofNat 8 (w >>> (8 * k))

/-- The least payload length at which the opcode's command is performed (R45): a table word that
gives fewer payload bytes stands for the packet filled up with zero bytes to this length. DESIGN
CHOICE (log entry 4), safe: the engine itself never reads a table word. -/
def payloadFloor (op : Byte) : Nat :=
  if op = opCompress then 16 else if op = opLoad then 64 else 0

/-- The packet a table word stands for. The table gives the opcode byte only; the payload bytes
above `nbits` are zero. -/
def tableWordPacket (nbits w : Nat) : Packet :=
  match tableWordBytes nbits w with
  | [] => []
  | op :: Q => op :: (Q ++ List.replicate (payloadFloor op - Q.length) 0)

/-- What the decoder reads from a table word. -/
def decodeTableWord (nbits w : Nat) : Option Instr :=
  (decode (tableWordPacket nbits w)).toOption

end Sys2Proof
end

