-- ==== Sys2Proof/Machine/Flags.lean ====
section
/-! DEFINITION. The engine has no flags (10_state.md R25): a command's outcome is carried by the
status byte of its response alone, and this file holds those status bytes (30_encoding.md R50). -/

namespace Sys2Proof.Machine

/-- R86: the two errors the engine can raise. -/
inductive EngineError where
  /-- Raised by LOAD when its payload is not exactly 64 bytes (R82, R87). -/
  | malformedState
  /-- Raised by the decoder for a packet that is none of the five commands (R88). -/
  | illegalCommand
  deriving DecidableEq, Repr

/-- R50: the outcome of a command. -/
inductive Status where
  | ok
  | error (e : EngineError)
  deriving DecidableEq, Repr

/-- R50: the status byte of each outcome. -/
def Status.code : Status → Byte
  | .ok => 0x00
  | .error .malformedState => 0x01
  | .error .illegalCommand => 0x02

end Sys2Proof.Machine
end

