-- ==== Sys2Proof/Machine/State.lean ====
section
/-! DEFINITION. The engine's state as plain data, the reasons a step could stop, and the power-on
state (10_state.md R13, R27; 70_reset_and_hazards.md R100). -/

namespace Sys2Proof.Machine

/-- R13: `X` and `C` are the whole mutable state of the engine. `inbox` and `outbox` are the model's
own: the packet interface of R42 as data, so that a step is a function of the state alone. DESIGN
CHOICE (log entries 1 and 2), unsafe as those entries say. `X` and `C` are register files of fixed
size and not a list of memory cells: DESIGN CHOICE (log entry 8), safe. -/
structure State where
  /-- R16: the working buffer, `X[0]` to `X[47]`. -/
  X : Buffer
  /-- R19: the checksum, `C[0]` to `C[15]`. -/
  C : Checksum
  /-- R42, R37: the command packets issued and not yet taken, oldest first. -/
  inbox : List Packet
  /-- R42, R49: the response packets given so far, oldest first. -/
  outbox : List Packet
  deriving DecidableEq, Repr

/-- The faults that stop the machine. There is none, so the type has no constructor: the two errors
of 60_exceptions.md R86 are responses, after which the engine is ready for its next command (R90). -/
inductive Fault where
  deriving DecidableEq, Repr

/-- Why the model gives an instruction no meaning. -/
inductive Refusal where
  /-- Raised by an arm of `exec` for an instruction that has no meaning yet, named by its mnemonic.
  Safe: the model stops where the engine goes on. No arm raises it. -/
  | notModelled (mnemonic : String)
  deriving DecidableEq, Repr

/-- R27, R100: the engine at power-on, `X` and `C` all 0x00, no packet waiting and none answered
(the two empty lists: DESIGN CHOICE, log entries 1 and 2, unsafe). -/
def State.reset : State where
  X := Vector.replicate 48 0x00
  C := Vector.replicate 16 0x00
  inbox := []
  outbox := []

end Sys2Proof.Machine
end

