-- ==== Sys2Proof/Machine/Ops.lean ====
section
/-! DEFINITION. The named operations over the state that the meanings share: taking the next packet,
writing `X` and `C`, answering, and raising an error. -/

namespace Sys2Proof.Machine

/-- What a command or a step of the engine answers. -/
abbrev Result := Host.Outcome State Fault Refusal

/-- R37: take the oldest waiting packet, if there is one. -/
def State.takePacket (s : State) : Option (Packet × State) :=
  match s.inbox with
  | [] => none
  | pkt :: rest => some (pkt, { s with inbox := rest })

/-- R42: the host issues one more command packet, behind those already waiting (log entry 1). -/
def State.deliver (s : State) (pkt : Packet) : State :=
  { s with inbox := s.inbox ++ [pkt] }

/-- R18, R20: write all of `X` and all of `C`; no command writes less. -/
def State.setCore (s : State) (X : Buffer) (C : Checksum) : State :=
  { s with X := X, C := C }

/-- R49, R10 `respond(status, data)`: one response packet, the status byte and then the data. -/
def State.respond (s : State) (status : Status) (data : List Byte) : State :=
  { s with outbox := s.outbox ++ [status.code :: data] }

/-- R10 `raise E`, R90, R91: the command ends at once with the one-byte error response, and nothing
else of the state changes. This is all there is to taking an exception on this engine; there is no
return from one (R92). -/
def raise (e : EngineError) (s : State) : Result :=
  .next (s.respond (.error e) [])

/-- R31: the snapshot image of the state, `X[0..47]` and then `C[0..15]`. -/
def State.snapshot (s : State) : List Byte := s.X.toList ++ s.C.toList

end Sys2Proof.Machine
end

