-- ==== Sys2Proof/Machine/Compress.lean ====
section
/-! DEFINITION. The function `compress` and the command COMPRESS (40_compress.md R59 to R66).
R64 shows that steps 1 to 3 and step 4 do not touch each other's data, so they are the two functions
`mix` and `fold` of the same block. They are marked irreducible so that no proof about the state
runs the rounds by accident; a proof about them rewrites with their equations. -/

namespace Sys2Proof.Machine

/-- R60, R61: the 48 bytes after steps 1 and 2. The block area is as it was, the input area holds the
block, and the xor area holds the block xored with the block area. -/
def spread (X : Buffer) (B : Block) : List Byte :=
  X.toList.take 16 ++ B.toList ++ List.zipWith (· ^^^ ·) B.toList X.toList

/-- R62, the inner loop of one round over the positions in increasing order: each byte is xored with
`S[t]`, and `t` becomes the byte just written. Answers the new bytes and the last `t`. -/
def sweep : Byte → List Byte → List Byte × Byte
  | t, [] => ([], t)
  | t, x :: xs =>
    let v := x ^^^ S t
    let r := sweep v xs
    (v :: r.1, r.2)

/-- R62, the rounds: after each sweep, `t` becomes `(t + j) mod 256` for the round `j` just done. -/
def rounds : List Nat → Byte → List Byte → List Byte
  | [], _, bytes => bytes
  | j :: js, t, bytes =>
    let r := sweep t bytes
    rounds js (r.2 + BitVec.ofNat 8 j) r.1

theorem sweep_length (t : Byte) (bytes : List Byte) : (sweep t bytes).1.length = bytes.length := by
  induction bytes generalizing t with
  | nil => rfl
  | cons x xs ih => simp [sweep, ih]

theorem rounds_length (js : List Nat) (t : Byte) (bytes : List Byte) :
    (rounds js t bytes).length = bytes.length := by
  induction js generalizing t bytes with
  | nil => rfl
  | cons j js ih => simp [rounds, ih, sweep_length]

theorem spread_length (X : Buffer) (B : Block) : (spread X B).length = 48 := by
  simp [spread]

/-- R62, R64: `X` after steps 1, 2 and 3, that is 18 rounds, `t` being 0 at the start of round 0. -/
@[irreducible] def mix (X : Buffer) (B : Block) : Buffer :=
  Vector.mk (rounds (List.range Config.rounds) 0x00 (spread X B)).toArray
    (by rw [List.size_toArray, rounds_length, spread_length])

/-- R63, the loop of step 4: each checksum byte is xored with the table entry at the block byte
xored with `l`, and `l` becomes the byte just written. -/
def chain : Byte → List Byte → List Byte → List Byte
  | l, c :: cs, b :: bs =>
    let v := c ^^^ S (b ^^^ l)
    v :: chain v cs bs
  | _, [], _ => []
  | _, _, [] => []

theorem chain_length (l : Byte) (cs bs : List Byte) (h : cs.length = bs.length) :
    (chain l cs bs).length = cs.length := by
  induction cs generalizing l bs with
  | nil => simp [chain]
  | cons c cs ih =>
    cases bs with
    | nil => simp at h
    | cons b bs => simpa [chain] using ih _ bs (by simpa using h)

/-- R63, R64: `C` after step 4; `l` starts as the old `C[15]`. -/
@[irreducible] def fold (C : Checksum) (B : Block) : Checksum :=
  Vector.mk (chain C[15] C.toList B.toList).toArray
    (by rw [List.size_toArray, chain_length] <;> simp)

/-- R59: the function `compress(X, C, B)`, total on every state and block (90_conflicts.md C4). The
block is a value (R65). -/
def compress (X : Buffer) (C : Checksum) (B : Block) : Buffer × Checksum :=
  (mix X B, fold C B)

/-- R59: COMPRESS writes all of `X` and all of `C`, and answers OK with no data. The phase of the
host's protocol is not checked (R96, R107). -/
def execCompress (B : Block) (s : State) : Result :=
  let r := compress s.X s.C B
  .next ((s.setCore r.1 r.2).respond .ok [])

end Sys2Proof.Machine
end

