-- ==== Sys2Proof/Machine/Operands.lean ====
section
/-! DEFINITION. How an operand becomes the bytes a command works on: the padded block of FINALIZE
(41_finalize.md R68) and the two parts of a snapshot (20_memory.md R31). -/

namespace Sys2Proof.Machine

/-- R68: the remaining input followed by `rem` copies of the byte `rem`, where `rem` is 16 less the
count of remaining bytes. -/
def padBytes (R : List Byte) : List Byte :=
  R ++ List.replicate (16 - R.length) (BitVec.ofNat 8 (16 - R.length))

theorem padBytes_length {R : List Byte} (h : R.length ≤ Config.maxRemaining) :
    (padBytes R).length = 16 := by
  simp only [Config.maxRemaining] at h
  simp only [padBytes, List.length_append, List.length_replicate]
  omega

/-- R68: the padded block `P`, for a remaining input of 0 to 15 bytes. -/
def padBlock (R : List Byte) (h : R.length ≤ Config.maxRemaining) : Block :=
  Vector.mk (padBytes R).toArray (padBytes_length h)

/-- R31, R81: snapshot offsets 0 to 47 are `X`. -/
def snapshotBuffer (Q : List Byte) (h : Q.length = 64) : Buffer :=
  Vector.mk (Q.take 48).toArray (by simp [h])

/-- R31, R81: snapshot offsets 48 to 63 are `C`. -/
def snapshotChecksum (Q : List Byte) (h : Q.length = 64) : Checksum :=
  Vector.mk (Q.drop 48).toArray (by simp [h])

end Sys2Proof.Machine
end

