-- ==== Sys2Proof/Machine/Finalize.lean ====
section
/-! DEFINITION. The command FINALIZE (41_finalize.md R67 to R74). -/

namespace Sys2Proof.Machine

/-- R71: the digest, `X[0]` to `X[15]` in that order. -/
def digest (X : Buffer) : List Byte := X.toList.take 16

/-- R67, R69, R70: pass 1 on the padded block, then pass 2 on a copy of the checksum that pass 1
left. Both passes are full compressions, so pass 2 rewrites `C` too (R72, 90_conflicts.md C1). -/
def finalPasses (X : Buffer) (C : Checksum) (P : Block) : Buffer × Checksum :=
  let p := compress X C P
  compress p.1 p.2 p.2

/-- R67: FINALIZE. A payload of 16 bytes or more is no FINALIZE but the error ILLEGAL_COMMAND (R54);
the decoder never hands one over, and the test here only makes the meaning total: DESIGN CHOICE
(log entry 3), safe. -/
def execFinalize (R : List Byte) (s : State) : Result :=
  if h : R.length ≤ Config.maxRemaining then
    let r := finalPasses s.X s.C (padBlock R h)
    .next ((s.setCore r.1 r.2).respond .ok (digest r.1))
  else raise .illegalCommand s

end Sys2Proof.Machine
end

