-- ==== Sys2Proof/Machine/Reset.lean ====
section
/-! DEFINITION. The command RESET (42_reset.md R75 to R77). -/

namespace Sys2Proof.Machine

/-- R75, R76: `X` and `C` as at power-on, every byte 0x00. R103: a reset line asserted between two
commands, where an implementation has one, does this too (log entry 6). -/
def State.clearCore (s : State) : State :=
  s.setCore (Vector.replicate 48 0x00) (Vector.replicate 16 0x00)

/-- R75: RESET answers OK with no data and reads no state. -/
def execReset (s : State) : Result :=
  .next (s.clearCore.respond .ok [])

end Sys2Proof.Machine
end

