-- ==== Sys2Proof/Machine/Transfer.lean ====
section
/-! DEFINITION. The commands SAVE and LOAD (43_state_transfer.md R78 to R85). -/

namespace Sys2Proof.Machine

/-- R78, R80: SAVE answers the snapshot and changes neither `X` nor `C`. -/
def execSave (s : State) : Result :=
  .next (s.respond .ok s.snapshot)

/-- R81, R82, R83: LOAD tests the payload's length and nothing else, before it writes anything. -/
def execLoad (Q : List Byte) (s : State) : Result :=
  if h : Q.length = 64 then
    .next ((s.setCore (snapshotBuffer Q h) (snapshotChecksum Q h)).respond .ok [])
  else raise .malformedState s

end Sys2Proof.Machine
end

