-- ==== Sys2Proof/Machine/Dispatch.lean ====
section
/-! DEFINITION. Which meaning each command has (30_encoding.md R44): one arm per constructor. -/

namespace Sys2Proof.Machine

def exec (i : Instr) (s : State) : Host.Outcome State Fault Refusal :=
  match i with
  | .reset => Sys2Proof.Machine.execReset s
  | .compress B => Sys2Proof.Machine.execCompress B s
  | .finalize R => Sys2Proof.Machine.execFinalize R s
  | .save => Sys2Proof.Machine.execSave s
  | .load Q => Sys2Proof.Machine.execLoad Q s

end Sys2Proof.Machine
end

