-- ==== Sys2Proof/Machine/Step.lean ====
section
/-! DEFINITION. One step of the engine (00_scope.md R11): take the oldest waiting packet, decode it,
execute it or answer ILLEGAL_COMMAND. -/

namespace Sys2Proof.Machine

/-- R52, R88, R93: the decoder runs first; a packet that is no command raises ILLEGAL_COMMAND. -/
def runPacket (pkt : Packet) (s : State) : Host.Outcome State Fault Refusal :=
  match decode pkt with
  | .ok i => exec i s
  | .error _ => raise .illegalCommand s

/-- R11, R36, R37: one whole packet a step. R97: with no packet waiting the engine is idle and holds
its state: DEDUCED (log entry 7), safe. -/
def step (s : State) : Host.Outcome State Fault Refusal :=
  match s.takePacket with
  | none => .next s
  | some (pkt, s') => runPacket pkt s'

/-- The state `s` with the packet of a table word in front of all waiting packets, so that the very
next step runs it: DESIGN CHOICE (log entry 4), safe. -/
def State.withFetchWord (s : State) (nbits w : Nat) : State :=
  { s with inbox := tableWordPacket nbits w :: s.inbox }

end Sys2Proof.Machine
end

