-- ==== Sys2Proof/Machine/Instances.lean ====
section
/-! DEFINITION. Several engines (60_exceptions.md R98): the product of independent models of one.
The table `S`, a constant, is all they share (20_memory.md R41). Which engine steps is an argument: DESIGN CHOICE (log entry 11),
safe. -/

namespace Sys2Proof.Machine

/-- R98: any number of engines, each with its own state. -/
abbrev Engines := List State

/-- R98: engine `k` takes one step and the others take none. -/
def stepEngine (k : Nat) (es : Engines) : Engines :=
  match es[k]? with
  | none => es
  | some s =>
    match step s with
    | .next t => es.set k t
    | .fault _ => es
    | .refused _ => es

end Sys2Proof.Machine
end

