-- ==== Sys2Proof/Machine/Pseudocode.lean ====
section
/-! DEFINITION. The spec's pseudocode written down line for line (40_compress.md R60 to R63,
41_finalize.md R67), over the primitives of 00_scope.md R10: indexed reads and writes and counted
loops. The machine does not call it; statements compare the meanings with it. -/

namespace Sys2Proof.Machine

/-- R10: an array as its indexed reads, `X[k]` being `X k`. -/
abbrev Cells := Nat → Byte

/-- R10: `X[k] <- v`. -/
def put (X : Cells) (k : Nat) (v : Byte) : Cells := fun i => if i = k then v else X i

/-- R8: `for j in 0..n-1`, in increasing order. -/
def forLoop {σ : Type} (n : Nat) (body : Nat → σ → σ) (start : σ) : σ :=
  match n with
  | 0 => start
  | m + 1 => body m (forLoop m body start)

/-- The indexed reads of a sequence of `n` bytes. -/
def cellsOf {n : Nat} (v : Vector Byte n) : Cells := fun i => if h : i < n then v[i] else 0x00

/-- R60, step 1. -/
def pseudoLoad (X B : Cells) : Cells :=
  forLoop 16 (fun j X => put X (16 + j) (B j)) X

/-- R61, step 2. -/
def pseudoXor (X : Cells) : Cells :=
  forLoop 16 (fun j X => put X (32 + j) (X (16 + j) ^^^ X j)) X

/-- R62, the inner loop of step 3 with its running byte. -/
def pseudoRound (r : Cells × Byte) : Cells × Byte :=
  forLoop 48 (fun k r => (put r.1 k (r.1 k ^^^ S r.2), r.1 k ^^^ S r.2)) r

/-- R62, step 3. -/
def pseudoRounds (X : Cells) : Cells :=
  (forLoop 18 (fun j r => ((pseudoRound r).1, (pseudoRound r).2 + BitVec.ofNat 8 j)) (X, 0x00)).1

/-- R63, step 4. -/
def pseudoChecksum (C B : Cells) : Cells :=
  (forLoop 16 (fun j r => (put r.1 j (r.1 j ^^^ S (B j ^^^ r.2)), r.1 j ^^^ S (B j ^^^ r.2)))
    (C, C 15)).1

/-- R59: `compress(X, C, B)`, steps 1 to 4 in order. -/
def pseudoCompress (r : Cells × Cells) (B : Cells) : Cells × Cells :=
  (pseudoRounds (pseudoXor (pseudoLoad r.1 B)), pseudoChecksum r.2 B)

/-- R68: the padded block of `n` remaining bytes. -/
def pseudoPad (R : List Byte) : Cells :=
  fun i => if i < R.length then R.getD i 0x00 else BitVec.ofNat 8 (16 - R.length)

/-- R67: pass 1 on the padded block, then pass 2 on a copy of the checksum. -/
def pseudoFinalize (r : Cells × Cells) (R : List Byte) : Cells × Cells :=
  let p := pseudoCompress r (pseudoPad R)
  pseudoCompress p p.2

end Sys2Proof.Machine
end

