-- ==== Sys2Proof/Machine/Protocol.lean ====
section
/-! DEFINITION. The host's side: how a message becomes commands (30_encoding.md R57, R58), the
function MD2 (70_reset_and_hazards.md R108) and the phases of the protocol (R104 to R107). The
phase is a function of the command history; the step reads none of this. -/

namespace Sys2Proof.Machine

/-- R108: the message bytes at `16 i` to `16 i + 15`. -/
def blockAt (M : List Byte) (i : Nat) : Block :=
  Vector.ofFn fun j : Fin 16 => M.getD (16 * i + j.val) 0x00

/-- R57: the full blocks of a message in message order, `L / 16` of them. -/
def blocks (M : List Byte) : List Block :=
  (List.range (M.length / 16)).map (blockAt M)

/-- R57: the `L mod 16` bytes left over after the full blocks. -/
def leftover (M : List Byte) : List Byte := M.drop (16 * (M.length / 16))

theorem leftover_length (M : List Byte) : (leftover M).length ≤ Config.maxRemaining := by
  simp only [leftover, List.length_drop, Config.maxRemaining]
  omega

/-- R108, the loop: compress each block in order. -/
def absorb (core : Buffer × Checksum) (Bs : List Block) : Buffer × Checksum :=
  Bs.foldl (fun r B => compress r.1 r.2 B) core

/-- R108: 48 bytes 0x00 and 16 bytes 0x00. -/
def zeroCore : Buffer × Checksum := (Vector.replicate 48 0x00, Vector.replicate 16 0x00)

/-- R108: the function MD2 on whole messages. -/
def md2 (M : List Byte) : List Byte :=
  let m := absorb zeroCore (blocks M)
  let p := compress m.1 m.2 (padBlock (leftover M) (leftover_length M))
  let q := compress p.1 p.2 p.2
  q.1.toList.take 16

/-- R57, R58: COMPRESS for each full block of `M`, then FINALIZE with the leftover. -/
def bodyCommands (M : List Byte) : List Instr :=
  (blocks M).map .compress ++ [.finalize (leftover M)]

/-- R57: the packets of the pseudo-instruction HASH. -/
def hashPackets (M : List Byte) : List Packet :=
  (Instr.reset :: bodyCommands M).map encode

/-- R58: the packets of the pseudo-instruction RESUME. -/
def resumePackets (W M : List Byte) : List Packet :=
  (Instr.load W :: bodyCommands M).map encode

/-- R104: the three phases of the host's protocol. -/
inductive Phase where
  | initial
  | accumulating
  | finalized
  deriving DecidableEq, Repr

/-- R105: the phase after a command; a rejected one leaves it as it was. -/
def Phase.after (p : Phase) (i : Instr) : Phase :=
  match i with
  | .reset => .initial
  | .compress _ => if p = .finalized then .finalized else .accumulating
  | .finalize R => if R.length ≤ Config.maxRemaining then .finalized else p
  | .save => p
  | .load Q => if Q.length = 64 then .accumulating else p

/-- R105, R107: whether the protocol lets the host issue the command in the phase. The engine does
not check it (R96). -/
def Phase.allows (p : Phase) (i : Instr) : Bool :=
  match i with
  | .reset => true
  | .compress _ => decide (p ≠ .finalized)
  | .finalize _ => decide (p ≠ .finalized)
  | .save => true
  | .load _ => true

/-- R105: the phase after a packet; one that is no command is rejected and leaves it as it was. -/
def Phase.afterPacket (p : Phase) (pkt : Packet) : Phase :=
  match decode pkt with
  | .ok i => p.after i
  | .error _ => p

/-- R104: the phase as a function of the packets issued since it was `p`. -/
def Phase.afterAll (p : Phase) (pkts : List Packet) : Phase :=
  pkts.foldl Phase.afterPacket p

/-- 10_state.md R27, R100: the phase at power-on, before any command. -/
def Phase.powerOn : Phase := .initial

/-- R104: the phase as a function of all packets issued since power-on, oldest first. -/
def phaseOf (pkts : List Packet) : Phase := Phase.powerOn.afterAll pkts

/-- R106, R107: the host issues these commands, from phase `p` on, without a violation. -/
def abides : Phase → List Instr → Bool
  | _, [] => true
  | p, i :: is => p.allows i && abides (p.after i) is

/-- R37 (a), R106: the message absorbed so far after one more command, for a host that loads no
snapshot: RESET starts a new message and COMPRESS adds its block. -/
def messageAfter (M : List Byte) (i : Instr) : List Byte :=
  match i with
  | .reset => []
  | .compress B => M ++ B.toList
  | .finalize _ => M
  | .save => M
  | .load _ => M

end Sys2Proof.Machine
end

