-- ==== Sys2Proof/Machine/Text.lean ====
section
/-! DEFINITION. The text form of commands and responses (30_encoding.md R56), with the
pseudo-instructions HASH and RESUME (R57, R58). A notation for the host's side: the engine sees
packets only. A line is a list of characters. Where R56 leaves the spacing of a line open the choice
is the model's: DESIGN CHOICE (log entry 10), safe. -/

namespace Sys2Proof.Machine

/-- R56: the double quote. -/
def quoteChar : Char := Char.ofNat 34

/-- R56: the value of a hexadecimal digit, in either case. -/
def hexValue (c : Char) : Option Nat :=
  let n := c.toNat
  if 48 ≤ n ∧ n ≤ 57 then some (n - 48)
  else if 65 ≤ n ∧ n ≤ 70 then some (n - 55)
  else if 97 ≤ n ∧ n ≤ 102 then some (n - 87)
  else none

/-- R56: nothing follows but blanks and a comment. -/
def lineEnds : List Char → Bool
  | [] => true
  | c :: cs => if c = ';' then true else if c = ' ' then lineEnds cs else false

/-- R56: the rest of a quoted string after its opening quote; characters 0x20 to 0x7E but the double
quote, each standing for its ASCII code, no escapes. -/
def readQuoted : List Char → Option (List Byte)
  | [] => none
  | c :: cs =>
    if c = quoteChar then (if lineEnds cs then some [] else none)
    else if 32 ≤ c.toNat ∧ c.toNat ≤ 126 then
      (readQuoted cs).map fun bs => BitVec.ofNat 8 c.toNat :: bs
    else none

/-- R56, R7: an even number of hexadecimal digits, two per byte, joined or spaced; `onQuote` reads
what follows a double quote. -/
def readHex (onQuote : List Char → Option (List Byte)) : List Char → Option (List Byte)
  | [] => some []
  | c :: cs =>
    if c = ';' then some []
    else if c = ' ' then readHex onQuote cs
    else if c = quoteChar then onQuote cs
    else
      match cs with
      | [] => none
      | d :: ds =>
        match hexValue c, hexValue d with
        | some a, some b => (readHex onQuote ds).map fun bs => BitVec.ofNat 8 (16 * a + b) :: bs
        | _, _ => none

/-- R56: one operand, hexadecimal digits or a quoted string; an omitted operand is empty. -/
def readOperand (cs : List Char) : Option (List Byte) :=
  match cs.dropWhile (· = ' ') with
  | [] => some []
  | c :: ds => if c = quoteChar then readQuoted ds else readHex (fun _ => none) (c :: ds)

/-- R56: the words that begin a line. -/
inductive TextWord where
  | reset | compress | finalize | save | load | raw | hash | resume
  deriving DecidableEq, Repr

/-- R56 to R58: the spelling of each word, in upper case. -/
def TextWord.spelling : TextWord → List Char
  | .reset => ['R', 'E', 'S', 'E', 'T']
  | .compress => ['C', 'O', 'M', 'P', 'R', 'E', 'S', 'S']
  | .finalize => ['F', 'I', 'N', 'A', 'L', 'I', 'Z', 'E']
  | .save => ['S', 'A', 'V', 'E']
  | .load => ['L', 'O', 'A', 'D']
  | .raw => ['R', 'A', 'W']
  | .hash => ['H', 'A', 'S', 'H']
  | .resume => ['R', 'E', 'S', 'U', 'M', 'E']

/-- R56: the word a spelling stands for. -/
def textWord (w : List Char) : Option TextWord :=
  [TextWord.reset, .compress, .finalize, .save, .load, .raw, .hash, .resume].find?
    fun t => decide (t.spelling = w)

/-- R56 to R58: the packets of a word with its operand. Operand lengths are not checked, so that a
line can express an illegal packet. RESUME's first 64 bytes are the snapshot, the others the rest of
the message. -/
def assembleWord (w : TextWord) (cs : List Char) : Option (List Packet) :=
  match w with
  | .reset => (readOperand cs).map fun Q => [opReset :: Q]
  | .compress => (readOperand cs).map fun Q => [opCompress :: Q]
  | .finalize => (readOperand cs).map fun Q => [opFinalize :: Q]
  | .save => (readOperand cs).map fun Q => [opSave :: Q]
  | .load => (readOperand cs).map fun Q => [opLoad :: Q]
  | .raw => (readOperand cs).map fun Q => [Q]
  | .hash => (readOperand cs).map hashPackets
  | .resume => (readHex readQuoted cs).map fun Q => resumePackets (Q.take 64) (Q.drop 64)

/-- R56: the assembler on one line. A blank line or a comment gives no packet; `none` is a line that
is not in the text form. -/
def assembleLine (line : List Char) : Option (List Packet) :=
  if lineEnds line then some []
  else
    let cs := line.dropWhile (· = ' ')
    let rest := cs.dropWhile fun c => decide (65 ≤ c.toNat ∧ c.toNat ≤ 90)
    let separated := match rest with
      | [] => true
      | c :: _ => decide (c = ' ') || decide (c = ';')
    if separated then
      (textWord (cs.takeWhile fun c => decide (65 ≤ c.toNat ∧ c.toNat ≤ 90))).bind
        fun w => assembleWord w rest
    else none

/-- One hexadecimal digit, 0 to 15, in upper case. -/
def hexChar (n : Nat) : Char :=
  if n < 10 then Char.ofNat (48 + n) else Char.ofNat (55 + n)

/-- R7, R56: bytes as joined hexadecimal digits, two per byte, first byte first. -/
def hexText : List Byte → List Char
  | [] => []
  | b :: bs => hexChar (b.toNat / 16) :: hexChar (b.toNat % 16) :: hexText bs

/-- R56: the word of a command. -/
def commandWord : Instr → TextWord
  | .reset => .reset
  | .compress _ => .compress
  | .finalize _ => .finalize
  | .save => .save
  | .load _ => .load

/-- R56: a command as a line of text. -/
def commandText (i : Instr) : List Char :=
  (commandWord i).spelling ++ ' ' :: hexText i.payload

/-- R56: a response as text: `OK`, `OK <bytes>`, `ERR MALFORMED_STATE` or `ERR ILLEGAL_COMMAND`;
`none` for a packet that is no response of the engine. -/
def responseText (rsp : Packet) : Option String :=
  match rsp with
  | [] => none
  | status :: data =>
    if status = Status.code .ok then
      if data = [] then some "OK" else some ("OK " ++ String.ofList (hexText data))
    else if status = Status.code (.error .malformedState) ∧ data = [] then
      some "ERR MALFORMED_STATE"
    else if status = Status.code (.error .illegalCommand) ∧ data = [] then
      some "ERR ILLEGAL_COMMAND"
    else none

end Sys2Proof.Machine
end

