-- ==== Sys2Proof/Safety.lean ====
section
/-! DEFINITION. What statements about runs are said in: which responses the engine may give, what it
means for the state to reflect a message, and which bytes of the state matter for what follows. -/

namespace Sys2Proof.Machine

/-- 30_encoding.md R49 to R51: the forms of a response packet: OK with 0, 16 or 64 bytes of data, or
one error status byte alone. -/
def legalResponse (rsp : Packet) : Bool :=
  match rsp with
  | [] => false
  | status :: data =>
    (decide (status = 0x00) &&
      (decide (data.length = 0) || decide (data.length = 16) || decide (data.length = 64))) ||
    (decide (status = 0x01) && decide (data.length = 0)) ||
    (decide (status = 0x02) && decide (data.length = 0))

/-- Every response given so far has a form the spec gives (an invariant of the step). -/
def ResponsesLegal (s : State) : Prop := ∀ rsp ∈ s.outbox, legalResponse rsp = true

/-- 30_encoding.md R51: the responses a command may have. -/
def responseFits (i : Instr) (rsp : Packet) : Prop :=
  match i with
  | .reset => rsp = [0x00]
  | .compress _ => rsp = [0x00]
  | .finalize _ => ∃ d : List Byte, d.length = 16 ∧ rsp = 0x00 :: d
  | .save => ∃ d : List Byte, d.length = 64 ∧ rsp = 0x00 :: d
  | .load Q => (Q.length = 64 ∧ rsp = [0x00]) ∨ (Q.length ≠ 64 ∧ rsp = [0x01])

/-- 10_state.md R21, 20_memory.md R37 (a): `X` and `C` are what the full blocks of the message `M`,
compressed in order from the zero state, leave. -/
def Reflects (M : List Byte) (s : State) : Prop :=
  M.length % 16 = 0 ∧ s.X = (absorb zeroCore (blocks M)).1 ∧ s.C = (absorb zeroCore (blocks M)).2

/-- 10_state.md R23: the two states agree on `X[0..15]` and on `C`; `X[16..47]` is dead. -/
def LiveEqual (s t : State) : Prop :=
  (∀ k : Nat, (h : k < 16) → s.X[k] = t.X[k]) ∧ s.C = t.C

end Sys2Proof.Machine
end

