-- ==== Sys2Proof/Certificates/Slice0/Obligations.lean ====
section
/-! DEFINITION. The statements for the provers. Each docstring names the rule of the spec, or the
model's own choice, that the statement formalises. -/

open Sys2Proof Sys2Proof.Machine

/-! ### The step, the decoder and the encoder -/

/-- 30_encoding.md R52, 20_memory.md R37: a waiting packet that decodes to a command is taken and the
command runs on the state without it. The inbox is the model's (log entry 1). -/
def Obligations.StepRunsDecodedInstruction : Prop :=
  ∀ (s : State) (pkt : Packet) (rest : List Packet) (i : Instr),
    s.inbox = pkt :: rest → decode pkt = .ok i → step s = exec i { s with inbox := rest }

/-- 60_exceptions.md R97: between commands the engine is idle and holds its state. That an idle
engine has an empty inbox is the model's form of it (log entry 1). -/
def Obligations.IdleStepHoldsState : Prop :=
  ∀ s : State, s.inbox = [] → step s = .next s

/-- Log entry 4, the model's own reading of a table word: the packet `withFetchWord` places is the
one the next step runs. -/
def Obligations.PlacedTableWordRuns : Prop :=
  ∀ (s : State) (nbits w : Nat) (i : Instr),
    decodeTableWord nbits w = some i → step (s.withFetchWord nbits w) = exec i s

/-- 30_encoding.md section 6 and 95_test_vectors.md section 2.7: packets written out from the spec
decode to the commands they stand for, and the illegal ones to none. -/
def Obligations.WrittenPacketsDecode : Prop :=
  decode [0x01] = .ok .reset ∧
  decode [0x02, 0x30, 0x31, 0x32, 0x33, 0x34, 0x35, 0x36, 0x37, 0x38, 0x39, 0x61, 0x62, 0x63, 0x64,
    0x65, 0x66] = .ok (.compress #v[0x30, 0x31, 0x32, 0x33, 0x34, 0x35, 0x36, 0x37, 0x38, 0x39, 0x61,
    0x62, 0x63, 0x64, 0x65, 0x66]) ∧
  decode [0x03] = .ok (.finalize []) ∧
  decode [0x03, 0x61, 0x62, 0x63] = .ok (.finalize [0x61, 0x62, 0x63]) ∧
  decode [0x04] = .ok .save ∧
  decode [0x05, 0x00] = .ok (.load [0x00]) ∧
  decode [] = .error .emptyPacket ∧
  decode [0x00] = .error (.reservedOpcode 0x00) ∧
  decode [0xFF] = .error (.reservedOpcode 0xFF) ∧
  decode [0x01, 0x00] = .error (.unexpectedPayload 0x01) ∧
  decode [0x02, 0x00] = .error (.compressLength 1) ∧
  decode (0x03 :: List.replicate 16 0x00) = .error (.finalizeLength 16) ∧
  decode [0x04, 0x00] = .error (.unexpectedPayload 0x04)

/-- 30_encoding.md R43 to R48, R52: encoding and decoding are inverse to each other between the
well-formed commands and the legal packets, so no byte of a packet is dropped. -/
def Obligations.EncodeDecodeAreInverse : Prop :=
  (∀ i : Instr, i.wf = true → decode (encode i) = .ok i) ∧
  (∀ (pkt : Packet) (i : Instr), decode pkt = .ok i → i.wf = true ∧ encode i = pkt)

/-- 30_encoding.md R52: the six outcomes of the decoder, each by the bytes of the packets that have
it; ILLEGAL is every packet that is none of the other five. -/
def Obligations.DecoderHasSixOutcomes : Prop :=
  ∀ pkt : Packet,
    (decode pkt = .ok .reset ↔ pkt = [0x01]) ∧
    (∀ B : Block, decode pkt = .ok (.compress B) ↔ pkt = 0x02 :: B.toList) ∧
    (∀ R : List Byte, decode pkt = .ok (.finalize R) ↔ R.length ≤ 15 ∧ pkt = 0x03 :: R) ∧
    (decode pkt = .ok .save ↔ pkt = [0x04]) ∧
    (∀ Q : List Byte, decode pkt = .ok (.load Q) ↔ pkt = 0x05 :: Q) ∧
    ((∃ e, decode pkt = .error e) ↔
      pkt ≠ [0x01] ∧ (∀ B : Block, pkt ≠ 0x02 :: B.toList) ∧
      (∀ R : List Byte, R.length ≤ 15 → pkt ≠ 0x03 :: R) ∧ pkt ≠ [0x04] ∧
      ∀ Q : List Byte, pkt ≠ 0x05 :: Q)

/-- 60_exceptions.md R88: the packets that raise ILLEGAL_COMMAND are exactly those of the five
numbered causes, in every state: such a packet, and no other, is answered `02`. -/
def Obligations.IllegalCommandCauses : Prop :=
  ∀ (s : State) (pkt : Packet) (rest : List Packet), s.inbox = pkt :: rest →
    ∃ t : State, step s = .next t ∧
      (t.outbox = s.outbox ++ [[0x02]] ↔
        pkt = [] ∨ ∃ (op : Byte) (Q : List Byte), pkt = op :: Q ∧
          (op = 0x00 ∨ 6 ≤ op.toNat ∨
           ((op = 0x01 ∨ op = 0x04) ∧ Q ≠ []) ∨
           (op = 0x02 ∧ Q.length ≠ 16) ∨
           (op = 0x03 ∧ 16 ≤ Q.length)))

/-! ### Power-on and RESET -/

/-- 10_state.md R27, 70_reset_and_hazards.md R100: at power-on every byte of `X` and of `C` is 0x00.
(The two empty packet lists are the model's, log entries 1 and 2.) -/
def Obligations.PowerOnStateIsZero : Prop :=
  (∀ (k : Nat) (h : k < 48), State.reset.X[k] = 0x00) ∧
  (∀ (j : Nat) (h : j < 16), State.reset.C[j] = 0x00) ∧
  State.reset.inbox = [] ∧ State.reset.outbox = []

/-- 42_reset.md R75: RESET completes in every state, zeroes all of `X` and all of `C`, answers `00`
and leaves the rest; its packet is `01`, and with a payload it is no RESET; the phase after it is
Initial. -/
def Obligations.ResetZeroesState : Prop :=
  (∀ s : State, ∃ t : State, exec .reset s = .next t ∧
    (∀ (k : Nat) (h : k < 48), t.X[k] = 0x00) ∧
    (∀ (j : Nat) (h : j < 16), t.C[j] = 0x00) ∧
    t.inbox = s.inbox ∧ t.outbox = s.outbox ++ [[0x00]]) ∧
  encode .reset = [0x01] ∧
  (∀ Q : List Byte, Q ≠ [] → ∃ e, decode (0x01 :: Q) = .error e) ∧
  (∀ p : Phase, p.allows .reset = true ∧ p.after .reset = .initial)

/-- 42_reset.md R76: after RESET, whatever the state was, the engine answers every later sequence of
packets as an engine just powered on does, and ends in the same `X` and `C`; and RESET has the
effect of a LOAD of 64 bytes 0x00. -/
def Obligations.ResetGivesCreationState : Prop :=
  ∀ (s : State) (pkts : List Packet) (n : Nat), ∃ (t u v : State) (rs : List Packet),
    exec .reset { s with inbox := pkts } = .next t ∧
    Host.Core.run core n t = .next u ∧
    Host.Core.run core n { State.reset with inbox := pkts } = .next v ∧
    u.X = v.X ∧ u.C = v.C ∧ u.outbox = t.outbox ++ rs ∧ v.outbox = rs ∧
    exec (.load (List.replicate 64 0x00)) { s with inbox := pkts } = .next t

/-! ### COMPRESS -/

/-- 40_compress.md R61 (with R60): after steps 1 and 2, `X[0..15]` is unchanged, `X[16..31] = B` and
`X[32..47] = B xor X[0..15]`. -/
def Obligations.StepsOneAndTwoLayOutBuffer : Prop :=
  ∀ (X : Buffer) (B : Block) (j : Nat) (h : j < 16),
    (spread X B)[j]? = some X[j] ∧
    (spread X B)[16 + j]? = some B[j] ∧
    (spread X B)[32 + j]? = some (B[j] ^^^ X[j])

/-- 40_compress.md R59: COMPRESS completes in every state, for every block; `X` and `C` become what
the pseudocode of steps 1 to 4 (R60 to R63) gives, the response is `00`, the rest is unchanged. The
packet is `02 ++ B`. -/
def Obligations.CompressFollowsPseudocode : Prop :=
  ∀ (s : State) (B : Block), ∃ t : State, exec (.compress B) s = .next t ∧
    (∀ (k : Nat) (h : k < 48),
      t.X[k] = (pseudoCompress (cellsOf s.X, cellsOf s.C) (cellsOf B)).1 k) ∧
    (∀ (j : Nat) (h : j < 16),
      t.C[j] = (pseudoCompress (cellsOf s.X, cellsOf s.C) (cellsOf B)).2 j) ∧
    t.inbox = s.inbox ∧ t.outbox = s.outbox ++ [[0x00]] ∧
    encode (.compress B) = 0x02 :: B.toList

/-- 40_compress.md R63: the checksum's chain: each new `C[j]` is the old one xored with the table
entry at the block byte xored with the new `C[j - 1]`, and `C[0]` uses the old `C[15]`. -/
def Obligations.CompressChainsChecksum : Prop :=
  ∀ (s : State) (B : Block), ∃ t : State, exec (.compress B) s = .next t ∧
    t.C[0] = s.C[0] ^^^ S (B[0] ^^^ s.C[15]) ∧
    ∀ (j : Nat) (h : j + 1 < 16), t.C[j + 1] = s.C[j + 1] ^^^ S (B[j + 1] ^^^ t.C[j])

/-- 40_compress.md R64: steps 1 to 3 read no byte of `C` and step 4 reads no byte of `X`. -/
def Obligations.BufferAndChecksumAreSeparate : Prop :=
  ∀ (s u : State) (B : Block), ∃ t v : State,
    exec (.compress B) s = .next t ∧ exec (.compress B) u = .next v ∧
    (s.X = u.X → t.X = v.X) ∧ (s.C = u.C → t.C = v.C)

/-- 10_state.md R23, 40_compress.md R66: in states that agree on `X[0..15]` and `C`, COMPRESS and
FINALIZE leave the same `X` and the same `C` and give the same response. -/
def Obligations.DeadBytesHaveNoInfluence : Prop :=
  ∀ s u : State, LiveEqual s u →
    (∀ B : Block, ∃ t v : State, exec (.compress B) s = .next t ∧ exec (.compress B) u = .next v ∧
      t.X = v.X ∧ t.C = v.C) ∧
    (∀ R : List Byte, R.length ≤ 15 → ∃ (t v : State) (d : List Byte),
      exec (.finalize R) s = .next t ∧ exec (.finalize R) u = .next v ∧
      t.X = v.X ∧ t.C = v.C ∧
      t.outbox = s.outbox ++ [0x00 :: d] ∧ v.outbox = u.outbox ++ [0x00 :: d])

/-! ### FINALIZE -/

/-- 41_finalize.md R68: the padded block is the remaining input followed by `rem` copies of the byte
`rem`, with `rem = 16 - n` in 1 to 16. -/
def Obligations.PaddingRepeatsItsCount : Prop :=
  ∀ (R : List Byte) (hR : R.length ≤ 15),
    1 ≤ 16 - R.length ∧ 16 - R.length ≤ 16 ∧
    (∀ (i : Nat) (h : i < R.length), (padBlock R hR)[i] = R[i]) ∧
    (∀ (i : Nat) (h : i < 16), R.length ≤ i →
      (padBlock R hR)[i] = BitVec.ofNat 8 (16 - R.length))

/-- 41_finalize.md R67: FINALIZE completes in every state, for every remaining input of 0 to 15
bytes; `X` and `C` become what the pseudocode gives, the response is `00` and `X[0..15]`, the rest is
unchanged. The packet is `03 ++ R`. -/
def Obligations.FinalizeFollowsPseudocode : Prop :=
  ∀ (s : State) (R : List Byte), R.length ≤ 15 →
    ∃ (t : State) (d : List Byte), exec (.finalize R) s = .next t ∧
      (∀ (k : Nat) (h : k < 48), t.X[k] = (pseudoFinalize (cellsOf s.X, cellsOf s.C) R).1 k) ∧
      (∀ (j : Nat) (h : j < 16), t.C[j] = (pseudoFinalize (cellsOf s.X, cellsOf s.C) R).2 j) ∧
      t.inbox = s.inbox ∧ t.outbox = s.outbox ++ [0x00 :: d] ∧
      d.length = 16 ∧ (∀ (k : Nat) (h : k < 16), d[k]? = some t.X[k]) ∧
      encode (.finalize R) = 0x03 :: R

/-- 41_finalize.md R69 to R72: FINALIZE leaves exactly what COMPRESS of the padded block and then
COMPRESS of the checksum leave, and answers the first 16 bytes of that `X`. -/
def Obligations.FinalizeIsTwoCompressions : Prop :=
  ∀ (s : State) (R : List Byte) (hR : R.length ≤ 15), ∃ p q t : State,
    exec (.compress (padBlock R hR)) s = .next p ∧
    exec (.compress p.C) p = .next q ∧
    exec (.finalize R) s = .next t ∧
    t.X = q.X ∧ t.C = q.C ∧ t.inbox = s.inbox ∧
    t.outbox = s.outbox ++ [0x00 :: q.X.toList.take 16]

/-- 41_finalize.md R72, R74: pass 2 does rewrite the checksum: with `K` the checksum that COMPRESS of
the padded block leaves, `C[j]` becomes `K[j] xor S[K[j] xor l]`, `l` being `K[15]` and then the byte
written before. -/
def Obligations.SecondPassRewritesChecksum : Prop :=
  ∀ (s : State) (R : List Byte) (hR : R.length ≤ 15), ∃ p t : State,
    exec (.compress (padBlock R hR)) s = .next p ∧
    exec (.finalize R) s = .next t ∧
    t.C[0] = p.C[0] ^^^ S (p.C[0] ^^^ p.C[15]) ∧
    ∀ (j : Nat) (h : j + 1 < 16), t.C[j + 1] = p.C[j + 1] ^^^ S (p.C[j + 1] ^^^ t.C[j])

/-- Log entry 3, the model's own choice for a term the decoder never makes (30_encoding.md R54 says
it of packets): FINALIZE with 16 bytes or more is answered `02` and changes nothing else. -/
def Obligations.OverlongFinalizeIsIllegal : Prop :=
  ∀ (s : State) (R : List Byte), 16 ≤ R.length →
    exec (.finalize R) s = .next { s with outbox := s.outbox ++ [[0x02]] }

/-! ### SAVE and LOAD -/

/-- 43_state_transfer.md R78: SAVE completes in every state, answers `00` and the 64 bytes of `X` and
then `C`, and changes nothing else. Its packet is `04`; with a payload it is no SAVE. -/
def Obligations.SaveAnswersSnapshot : Prop :=
  (∀ s : State, ∃ (t : State) (W : List Byte), exec .save s = .next t ∧
    t.X = s.X ∧ t.C = s.C ∧ t.inbox = s.inbox ∧ t.outbox = s.outbox ++ [0x00 :: W] ∧
    W.length = 64 ∧
    (∀ (k : Nat) (h : k < 48), W[k]? = some s.X[k]) ∧
    (∀ (j : Nat) (h : j < 16), W[48 + j]? = some s.C[j])) ∧
  encode .save = [0x04] ∧
  (∀ Q : List Byte, Q ≠ [] → ∃ e, decode (0x04 :: Q) = .error e)

/-- 43_state_transfer.md R81: LOAD of 64 bytes completes in every state, writes all of `X` from
offsets 0 to 47 and all of `C` from offsets 48 to 63, answers `00` and leaves the rest. -/
def Obligations.LoadWritesSnapshot : Prop :=
  ∀ (s : State) (Q : List Byte) (hQ : Q.length = 64), ∃ t : State, exec (.load Q) s = .next t ∧
    (∀ (k : Nat) (h : k < 48), t.X[k] = Q[k]) ∧
    (∀ (j : Nat) (h : j < 16), t.C[j] = Q[48 + j]) ∧
    t.inbox = s.inbox ∧ t.outbox = s.outbox ++ [[0x00]] ∧
    encode (.load Q) = 0x05 :: Q

/-- 43_state_transfer.md R82, 60_exceptions.md R87: LOAD of any other length writes nothing and
answers the single byte `01`; LOAD answers `01` for those lengths only. -/
def Obligations.LoadOfOtherLengthFails : Prop :=
  ∀ (s : State) (Q : List Byte),
    (Q.length ≠ 64 → exec (.load Q) s = .next { s with outbox := s.outbox ++ [[0x01]] }) ∧
    (∀ t : State, exec (.load Q) s = .next t →
      (t.outbox = s.outbox ++ [[0x01]] ↔ Q.length ≠ 64))

/-- 43_state_transfer.md R84: a snapshot that SAVE returned, loaded on any state, puts `X` and `C`
back exactly; and SAVE after LOAD W returns W. -/
def Obligations.SaveAndLoadAreInverse : Prop :=
  (∀ s u : State, ∃ (s' u' : State) (W : List Byte),
    exec .save s = .next s' ∧ s'.outbox = s.outbox ++ [0x00 :: W] ∧
    exec (.load W) u = .next u' ∧ u'.X = s.X ∧ u'.C = s.C) ∧
  (∀ (u : State) (W : List Byte), W.length = 64 → ∃ u' v : State,
    exec (.load W) u = .next u' ∧ exec .save u' = .next v ∧
    v.outbox = u'.outbox ++ [0x00 :: W])

/-- 43_state_transfer.md R83: every payload of 64 bytes is accepted, and every pair `(X, C)` is
reached by one LOAD. -/
def Obligations.EveryStateIsLoadable : Prop :=
  (∀ (s : State) (Q : List Byte), Q.length = 64 → ∃ t : State, exec (.load Q) s = .next t ∧
    t.outbox = s.outbox ++ [[0x00]]) ∧
  (∀ (X : Buffer) (C : Checksum), ∃ Q : List Byte, Q.length = 64 ∧
    ∀ s : State, ∃ t : State, exec (.load Q) s = .next t ∧ t.X = X ∧ t.C = C)

/-- 43_state_transfer.md R85: two snapshots that agree at offsets 0 to 15 and 48 to 63 lead, after
LOAD, to the same full state after a COMPRESS and to the same state and digest after a FINALIZE. -/
def Obligations.LiveSnapshotBytesDecide : Prop :=
  ∀ (s : State) (Q Q' : List Byte), Q.length = 64 → Q'.length = 64 →
    Q.take 16 = Q'.take 16 → Q.drop 48 = Q'.drop 48 →
    ∃ t t' : State, exec (.load Q) s = .next t ∧ exec (.load Q') s = .next t' ∧
      (∀ B : Block, ∃ u : State, exec (.compress B) t = .next u ∧ exec (.compress B) t' = .next u) ∧
      (∀ R : List Byte, R.length ≤ 15 → ∃ u : State,
        exec (.finalize R) t = .next u ∧ exec (.finalize R) t' = .next u)

/-! ### Errors and responses -/

/-- 60_exceptions.md R90: a packet answered with an error leaves the state as if it had never been
sent, but for its own response. -/
def Obligations.ErrorsHaveNoSideEffect : Prop :=
  ∀ (s t : State) (pkt : Packet) (rest : List Packet) (e : Byte),
    s.inbox = pkt :: rest → step s = .next t → t.outbox = s.outbox ++ [[e]] → e ≠ 0x00 →
    t = { s with inbox := rest, outbox := s.outbox ++ [[e]] }

/-- 30_encoding.md R51 (with R42): every packet, in every state, gets exactly one response, of the
form the table gives for its command, or `02` if it is none. -/
def Obligations.EveryPacketGetsItsResponse : Prop :=
  ∀ (s : State) (pkt : Packet) (rest : List Packet), s.inbox = pkt :: rest →
    ∃ (t : State) (rsp : Packet), step s = .next t ∧ t.inbox = rest ∧
      t.outbox = s.outbox ++ [rsp] ∧
      (∀ i : Instr, decode pkt = .ok i → responseFits i rsp) ∧
      (∀ e : Illegal, decode pkt = .error e → rsp = [0x02])

/-- 60_exceptions.md R89 (with R96): in every state, so in every phase of the host's protocol, a
command completes with the status OK, but for a LOAD whose payload is not 64 bytes. -/
def Obligations.OnlyLoadCanFail : Prop :=
  ∀ (s : State) (i : Instr), i.wf = true → (∀ Q : List Byte, i = .load Q → Q.length = 64) →
    ∃ (t : State) (d : List Byte), exec i s = .next t ∧ t.outbox = s.outbox ++ [0x00 :: d]

/-- 20_memory.md R37, 30_encoding.md R42, 70_reset_and_hazards.md R114: as many steps as packets wait
take them all, each with its one response. -/
def Obligations.WaitingPacketsAreAllAnswered : Prop :=
  ∀ s : State, ∃ (t : State) (rs : List Packet),
    Host.Core.run core s.inbox.length s = .next t ∧ t.inbox = [] ∧
    t.outbox = s.outbox ++ rs ∧ rs.length = s.inbox.length

/-- 30_encoding.md R49 to R51: that every response given has a legal form is an invariant of the
step, in every state. -/
def Obligations.ResponsesStayLegal : Prop :=
  ∀ s t : State, ResponsesLegal s → step s = .next t → ResponsesLegal t

/-- The invariant of `ResponsesStayLegal` holds at power-on (the empty outbox is the model's, log
entry 2). -/
def Obligations.ResponsesLegalAtPowerOn : Prop := ResponsesLegal State.reset

/-- 30_encoding.md R51: nothing the engine does later changes a response already given. -/
def Obligations.GivenResponsesNeverChange : Prop :=
  ∀ (n : Nat) (s t : State), Host.Core.run core n s = .next t →
    ∃ rs : List Packet, t.outbox = s.outbox ++ rs

/-- 43_state_transfer.md R79, 10_state.md R13: two engines with the same snapshot that are sent the
same packets answer them identically and stay in the same state. -/
def Obligations.EqualSnapshotsEqualFutures : Prop :=
  ∀ (n : Nat) (s u : State), s.snapshot = u.snapshot → s.inbox = u.inbox →
    ∃ (t v : State) (rs : List Packet),
      Host.Core.run core n s = .next t ∧ Host.Core.run core n u = .next v ∧
      t.snapshot = v.snapshot ∧ t.inbox = v.inbox ∧
      t.outbox = s.outbox ++ rs ∧ v.outbox = u.outbox ++ rs

/-! ### Messages and the host's protocol -/

/-- 70_reset_and_hazards.md R108 (with 30_encoding.md R57): from any state, the packets of HASH are
answered `00` each and the last one with `00` and the digest MD2 of the message, for every message.
-/
def Obligations.HashAnswersMd2 : Prop :=
  ∀ (s : State) (M : List Byte) (rest : List Packet), s.inbox = hashPackets M ++ rest →
    ∃ t : State, Host.Core.run core (M.length / 16 + 2) s = .next t ∧ t.inbox = rest ∧
      t.outbox = s.outbox ++ List.replicate (M.length / 16 + 1) [0x00] ++ [0x00 :: md2 M]

/-- 30_encoding.md R58, 43_state_transfer.md R84: where a state reflects the full blocks `M`, the
packets of RESUME with its snapshot, sent to an engine in any state, are answered in the end with the
digest of `M` followed by the rest of the message. -/
def Obligations.ResumeAnswersMd2 : Prop :=
  ∀ (u : State) (M : List Byte), Reflects M u →
    ∀ (s : State) (M' : List Byte) (rest : List Packet),
      s.inbox = resumePackets u.snapshot M' ++ rest →
      ∃ t : State, Host.Core.run core (M'.length / 16 + 2) s = .next t ∧ t.inbox = rest ∧
        t.outbox =
          s.outbox ++ List.replicate (M'.length / 16 + 1) [0x00] ++ [0x00 :: md2 (M ++ M')]

/-- 20_memory.md R37 (a), 10_state.md R21: where the state reflects a message, COMPRESS makes it
reflect the message with its block, SAVE leaves that, RESET makes it reflect the empty message, and
FINALIZE answers the digest of the message with the remaining input. -/
def Obligations.CommandsTrackTheMessage : Prop :=
  ∀ (s : State) (M : List Byte), Reflects M s →
    (∀ B : Block, ∃ t : State, exec (.compress B) s = .next t ∧ Reflects (M ++ B.toList) t) ∧
    (∃ t : State, exec .save s = .next t ∧ Reflects M t) ∧
    (∃ t : State, exec .reset s = .next t ∧ Reflects [] t) ∧
    (∀ R : List Byte, R.length ≤ 15 → ∃ t : State, exec (.finalize R) s = .next t ∧
      t.outbox = s.outbox ++ [0x00 :: md2 (M ++ R)])

/-- 70_reset_and_hazards.md R106, R107: a host that loads no snapshot and keeps to the protocol, on
an engine with zero `X` and `C`, gets from its last FINALIZE the digest of the message it sent since
its last RESET. The premises are the protocol's; nothing is assumed of what it did before. -/
def Obligations.ProtocolGivesMd2 : Prop :=
  ∀ (s : State) (is : List Instr) (R : List Byte) (rest : List Packet),
    (∀ i ∈ is, i.wf = true ∧ ∀ Q : List Byte, i ≠ .load Q) → R.length ≤ 15 →
    abides .initial (is ++ [.finalize R]) = true →
    s.X = Vector.replicate 48 0x00 → s.C = Vector.replicate 16 0x00 →
    s.inbox = (is ++ [Instr.finalize R]).map encode ++ rest →
    ∃ (t : State) (rs : List Packet), Host.Core.run core (is.length + 1) s = .next t ∧
      t.inbox = rest ∧ rs.length = is.length ∧
      t.outbox = s.outbox ++ rs ++ [0x00 :: md2 (is.foldl messageAfter [] ++ R)]

/-- 95_test_vectors.md section 1.1: the three digests the source demands, of the empty message, of
`abc` and of `hello world`. -/
def Obligations.KnownAnswerDigests : Prop :=
  md2 [] = [0x83, 0x50, 0xE5, 0xA3, 0xE2, 0x4C, 0x15, 0x3D, 0xF2, 0x27, 0x5C, 0x9F, 0x80, 0x69, 0x27,
    0x73] ∧
  md2 [0x61, 0x62, 0x63] = [0xDA, 0x85, 0x3B, 0x0D, 0x3F, 0x88, 0xD9, 0x9B, 0x30, 0x28, 0x3A, 0x69,
    0xE6, 0xDE, 0xD6, 0xBB] ∧
  md2 [0x68, 0x65, 0x6C, 0x6C, 0x6F, 0x20, 0x77, 0x6F, 0x72, 0x6C, 0x64] = [0xD9, 0xCC, 0xE8, 0x82,
    0xEE, 0x69, 0x0A, 0x5C, 0x1C, 0xE7, 0x0B, 0xEF, 0xF3, 0xA7, 0x8C, 0x77]

/-- 10_state.md R14: `S` is a bijection on the bytes. -/
def Obligations.SubstitutionTableIsPermutation : Prop :=
  (∀ i j : Byte, S i = S j → i = j) ∧ ∀ v : Byte, ∃ i : Byte, S i = v

/-- 70_reset_and_hazards.md R105: the phase after each accepted command, and that a rejected packet
leaves it as it was. -/
def Obligations.PhaseTransitions : Prop :=
  (∀ p : Phase, p.after .reset = .initial) ∧
  (∀ B : Block, Phase.initial.after (.compress B) = .accumulating ∧
    Phase.accumulating.after (.compress B) = .accumulating ∧
    Phase.finalized.after (.compress B) = .finalized ∧
    Phase.finalized.allows (.compress B) = false) ∧
  (∀ (p : Phase) (R : List Byte), R.length ≤ 15 → p.after (.finalize R) = .finalized) ∧
  (∀ R : List Byte, Phase.finalized.allows (.finalize R) = false) ∧
  (∀ p : Phase, p.after .save = p) ∧
  (∀ (p : Phase) (Q : List Byte), Q.length = 64 → p.after (.load Q) = .accumulating) ∧
  (∀ (p : Phase) (s t : State) (pkt : Packet) (rest : List Packet) (e : Byte),
    s.inbox = pkt :: rest → step s = .next t → t.outbox = s.outbox ++ [[e]] → e ≠ 0x00 →
    p.afterPacket pkt = p)

/-- 60_exceptions.md R98, 20_memory.md R41: a step of one engine leaves every other engine as it was
and takes that engine to what its own step answers. -/
def Obligations.EnginesAreIndependent : Prop :=
  ∀ (es : Engines) (k : Nat),
    (∀ m : Nat, m ≠ k → (stepEngine k es)[m]? = es[m]?) ∧
    (∀ s t : State, es[k]? = some s → step s = .next t → (stepEngine k es)[k]? = some t)

/-- 10_state.md R27, 70_reset_and_hazards.md R100, R104: the phase at power-on is Initial; it then
follows the history packet by packet, RESET makes it Initial and a LOAD of 64 bytes Accumulating,
whatever came before. -/
def Obligations.PhaseFollowsHistory : Prop :=
  phaseOf [] = .initial ∧
  ∀ pkts : List Packet,
    (∀ pkt : Packet, phaseOf (pkts ++ [pkt]) = (phaseOf pkts).afterPacket pkt) ∧
    phaseOf (pkts ++ [[0x01]]) = .initial ∧
    (∀ Q : List Byte, Q.length = 64 → phaseOf (pkts ++ [0x05 :: Q]) = .accumulating)

/-- 30_encoding.md section 5: the assembler turns the text of a command into the command's packet,
and a RAW line into its bytes, whatever they are. Where there are no bytes the line ends in the blank
after its word: that such a line is accepted is the model's choice, log entry 10 (the line without the
blank is in OmittedOperandIsEmpty). -/
def Obligations.AssemblerReadsCommandText : Prop :=
  (∀ i : Instr, assembleLine (commandText i) = some [encode i]) ∧
  (∀ p : Packet, assembleLine (TextWord.raw.spelling ++ ' ' :: hexText p) = some [p])

/-- 30_encoding.md R56: an omitted operand is the empty sequence: a line that is a mnemonic and
nothing more is the opcode byte alone, and RAW alone is the empty packet. -/
def Obligations.OmittedOperandIsEmpty : Prop :=
  (∀ i : Instr, i.payload = [] → assembleLine (commandWord i).spelling = some [encode i]) ∧
  assembleLine TextWord.raw.spelling = some [[]]
end

