-- ==== Sys2Proof/Laws/State.lean ====
section
/-! SUPPORT. What each operation over the state does to each field, so that no proof unfolds a
record update. -/

namespace Sys2Proof.Machine

@[simp] theorem reset_X : State.reset.X = Vector.replicate 48 0x00 := rfl
@[simp] theorem reset_C : State.reset.C = Vector.replicate 16 0x00 := rfl
@[simp] theorem reset_inbox : State.reset.inbox = [] := rfl
@[simp] theorem reset_outbox : State.reset.outbox = [] := rfl

@[simp] theorem setCore_X (s : State) (X : Buffer) (C : Checksum) : (s.setCore X C).X = X := rfl
@[simp] theorem setCore_C (s : State) (X : Buffer) (C : Checksum) : (s.setCore X C).C = C := rfl
@[simp] theorem setCore_inbox (s : State) (X : Buffer) (C : Checksum) :
    (s.setCore X C).inbox = s.inbox := rfl
@[simp] theorem setCore_outbox (s : State) (X : Buffer) (C : Checksum) :
    (s.setCore X C).outbox = s.outbox := rfl

@[simp] theorem clearCore_X (s : State) : s.clearCore.X = Vector.replicate 48 0x00 := rfl
@[simp] theorem clearCore_C (s : State) : s.clearCore.C = Vector.replicate 16 0x00 := rfl
@[simp] theorem clearCore_inbox (s : State) : s.clearCore.inbox = s.inbox := rfl
@[simp] theorem clearCore_outbox (s : State) : s.clearCore.outbox = s.outbox := rfl

@[simp] theorem respond_X (s : State) (st : Status) (d : List Byte) : (s.respond st d).X = s.X := rfl
@[simp] theorem respond_C (s : State) (st : Status) (d : List Byte) : (s.respond st d).C = s.C := rfl
@[simp] theorem respond_inbox (s : State) (st : Status) (d : List Byte) :
    (s.respond st d).inbox = s.inbox := rfl
@[simp] theorem respond_outbox (s : State) (st : Status) (d : List Byte) :
    (s.respond st d).outbox = s.outbox ++ [st.code :: d] := rfl

@[simp] theorem deliver_X (s : State) (p : Packet) : (s.deliver p).X = s.X := rfl
@[simp] theorem deliver_C (s : State) (p : Packet) : (s.deliver p).C = s.C := rfl
@[simp] theorem deliver_inbox (s : State) (p : Packet) : (s.deliver p).inbox = s.inbox ++ [p] := rfl
@[simp] theorem deliver_outbox (s : State) (p : Packet) : (s.deliver p).outbox = s.outbox := rfl

@[simp] theorem withFetchWord_X (s : State) (n w : Nat) : (s.withFetchWord n w).X = s.X := rfl
@[simp] theorem withFetchWord_C (s : State) (n w : Nat) : (s.withFetchWord n w).C = s.C := rfl
@[simp] theorem withFetchWord_inbox (s : State) (n w : Nat) :
    (s.withFetchWord n w).inbox = tableWordPacket n w :: s.inbox := rfl
@[simp] theorem withFetchWord_outbox (s : State) (n w : Nat) :
    (s.withFetchWord n w).outbox = s.outbox := rfl

@[simp] theorem code_ok : Status.code .ok = 0x00 := rfl
@[simp] theorem code_malformed : Status.code (.error .malformedState) = 0x01 := rfl
@[simp] theorem code_illegal : Status.code (.error .illegalCommand) = 0x02 := rfl

/-- Two states with the same four fields are the same state. -/
theorem State.ext_fields {s t : State} (hX : s.X = t.X) (hC : s.C = t.C) (hi : s.inbox = t.inbox)
    (ho : s.outbox = t.outbox) : s = t := by
  cases s; cases t; simp_all

end Sys2Proof.Machine
end

