-- ==== Sys2Proof/Laws/Ops.lean ====
section
/-! SUPPORT. One lemma per shared operation that says everything it can do. -/

namespace Sys2Proof.Machine

/-- With a packet waiting, taking it leaves the others and changes nothing else. -/
theorem takePacket_cons {s : State} {pkt : Packet} {rest : List Packet} (h : s.inbox = pkt :: rest) :
    s.takePacket = some (pkt, { s with inbox := rest }) := by
  simp [State.takePacket, h]

/-- Taking a packet fails only where none is waiting. -/
theorem takePacket_none {s : State} : s.takePacket = none ↔ s.inbox = [] := by
  cases h : s.inbox <;> simp [State.takePacket, h]

/-- Raising an error answers the next state that differs in the one-byte response alone. -/
theorem raise_eq (e : EngineError) (s : State) :
    raise e s = .next { s with outbox := s.outbox ++ [[Status.code (.error e)]] } := rfl

/-- The snapshot is 64 bytes. -/
@[simp] theorem snapshot_length (s : State) : s.snapshot.length = 64 := by
  simp [State.snapshot]

/-- The first 48 bytes of the snapshot are `X`. -/
theorem snapshot_take (s : State) : s.snapshot.take 48 = s.X.toList := by
  simp [State.snapshot]

/-- The last 16 bytes of the snapshot are `C`. -/
theorem snapshot_drop (s : State) : s.snapshot.drop 48 = s.C.toList := by
  simp [State.snapshot]

/-- The buffer read from a snapshot holds its first 48 bytes. -/
@[simp] theorem snapshotBuffer_toList (Q : List Byte) (h : Q.length = 64) :
    (snapshotBuffer Q h).toList = Q.take 48 := by
  simp [snapshotBuffer]

/-- The checksum read from a snapshot holds its last 16 bytes. -/
@[simp] theorem snapshotChecksum_toList (Q : List Byte) (h : Q.length = 64) :
    (snapshotChecksum Q h).toList = Q.drop 48 := by
  simp [snapshotChecksum]

/-- The padded block holds the padded bytes. -/
@[simp] theorem padBlock_toList (R : List Byte) (h : R.length ≤ Config.maxRemaining) :
    (padBlock R h).toList = padBytes R := by
  simp [padBlock]

/-- The digest is 16 bytes. -/
@[simp] theorem digest_length (X : Buffer) : (digest X).length = 16 := by
  simp [digest]

end Sys2Proof.Machine
end

