-- ==== Sys2Proof/Laws/Datapath.lean ====
section
/-! SUPPORT. The loops of a compression: what one pass over a list does, and how passes over
appended lists compose. -/

namespace Sys2Proof.Machine

/-- A sweep over two lists in a row is a sweep over the first and then over the second. -/
theorem sweep_append (t : Byte) (xs ys : List Byte) :
    sweep t (xs ++ ys) =
      ((sweep t xs).1 ++ (sweep (sweep t xs).2 ys).1, (sweep (sweep t xs).2 ys).2) := by
  induction xs generalizing t with
  | nil => rfl
  | cons x xs ih => simp [sweep, ih]

/-- `X` after steps 1 to 3 as a list. -/
theorem mix_toList (X : Buffer) (B : Block) :
    (mix X B).toList = rounds (List.range Config.rounds) 0x00 (spread X B) := by
  simp [mix]

/-- The checksum after step 4 as a list. -/
theorem fold_toList (C : Checksum) (B : Block) :
    (fold C B).toList = chain C[15] C.toList B.toList := by
  simp [fold]

/-- The two passes of FINALIZE are two calls of `compress`. -/
theorem finalPasses_eq (X : Buffer) (C : Checksum) (P : Block) :
    finalPasses X C P =
      (mix (mix X P) (fold C P), fold (fold C P) (fold C P)) := rfl

/-- Xoring two lists reads no more of the second than the first is long. -/
theorem zipWith_xor_take (us vs : List Byte) :
    List.zipWith (· ^^^ ·) us vs = List.zipWith (· ^^^ ·) us (vs.take us.length) := by
  induction us generalizing vs with
  | nil => simp
  | cons u us ih =>
    cases vs with
    | nil => simp
    | cons v vs => simpa using ih vs

/-- Only the first 16 bytes of the buffer reach what steps 1 and 2 leave. -/
theorem spread_congr {X Y : Buffer} (B : Block) (h : X.toList.take 16 = Y.toList.take 16) :
    spread X B = spread Y B := by
  have hB : B.toList.length = 16 := by simp
  rw [spread, spread, zipWith_xor_take _ X.toList, zipWith_xor_take _ Y.toList, hB, h]

end Sys2Proof.Machine
end

