-- ==== Sys2Proof/Laws/Exec.lean ====
section
/-! SUPPORT. What each meaning answers, as a next state written out. -/

namespace Sys2Proof.Machine

/-- RESET's next state. -/
theorem exec_reset (s : State) :
    exec .reset s = .next (s.clearCore.respond .ok []) := rfl

/-- COMPRESS's next state. -/
theorem exec_compress (B : Block) (s : State) :
    exec (.compress B) s = .next ((s.setCore (mix s.X B) (fold s.C B)).respond .ok []) := rfl

/-- FINALIZE's next state, with the two passes of a remaining input of at most 15 bytes. -/
theorem exec_finalize {R : List Byte} (h : R.length ≤ Config.maxRemaining) (s : State) :
    exec (.finalize R) s =
      .next ((s.setCore (finalPasses s.X s.C (padBlock R h)).1
        (finalPasses s.X s.C (padBlock R h)).2).respond .ok
        (digest (finalPasses s.X s.C (padBlock R h)).1)) := by
  simp only [exec, execFinalize, h, dite_true]

/-- A term FINALIZE with too many bytes raises ILLEGAL_COMMAND. -/
theorem exec_finalize_overlong {R : List Byte} (h : ¬ R.length ≤ Config.maxRemaining) (s : State) :
    exec (.finalize R) s = raise .illegalCommand s := by
  simp only [exec, execFinalize, h, dite_false]

/-- SAVE's next state. -/
theorem exec_save (s : State) : exec .save s = .next (s.respond .ok s.snapshot) := rfl

/-- LOAD's next state for a payload of 64 bytes. -/
theorem exec_load {Q : List Byte} (h : Q.length = 64) (s : State) :
    exec (.load Q) s =
      .next ((s.setCore (snapshotBuffer Q h) (snapshotChecksum Q h)).respond .ok []) := by
  simp only [exec, execLoad, h, dite_true]

/-- LOAD of any other length raises MALFORMED_STATE. -/
theorem exec_load_other {Q : List Byte} (h : Q.length ≠ 64) (s : State) :
    exec (.load Q) s = raise .malformedState s := by
  simp only [exec, execLoad, h, dite_false]

end Sys2Proof.Machine
end

