-- ==== Sys2Proof/Laws/PerInstr.lean ====
section
/-! SUPPORT. Statements made instruction by instruction: the packet lengths of 30_encoding.md R45. -/

namespace Sys2Proof.Laws.PacketLength

/-- R45: the length of the packet of a well-formed command. -/
def Statement (i : Instr) : Prop :=
  i.wf = true →
    match i with
    | .reset => (encode i).length = 1
    | .compress _ => (encode i).length = 17
    | .finalize _ => 1 ≤ (encode i).length ∧ (encode i).length ≤ 16
    | .save => (encode i).length = 1
    | .load Q => (encode i).length = 1 + Q.length

theorem reset : Statement .reset := fun _ => rfl

theorem compress (B : Block) : Statement (.compress B) := by
  simp [Statement, encode, Instr.payload]

theorem finalize (R : List Byte) : Statement (.finalize R) := by
  simp [Statement, encode, Instr.payload, Instr.wf, Config.maxRemaining, Nat.lt_succ_iff]

theorem save : Statement .save := fun _ => rfl

theorem load (Q : List Byte) : Statement (.load Q) := by
  simp [Statement, encode, Instr.payload, Nat.add_comm]

end Sys2Proof.Laws.PacketLength
end

