-- ==== Sys2Proof/Tests/Slice0.lean ====
section
/-! SUPPORT. The model's own tests, with expected values from the spec (95_test_vectors.md, 30_encoding.md
section 6), and for each statement with hypotheses a state and operands that meet them. -/

/- The tests run one after another: in parallel each takes a thread with a large stack of its own. -/
set_option Elab.async false

namespace Sys2Proof.Tests

open Sys2Proof.Machine

/-- The power-on engine with these packets waiting. -/
def fresh (pkts : List Packet) : State := { State.reset with inbox := pkts }

/-- An engine whose bytes are all 0xFF, with these packets waiting. -/
def filled (pkts : List Packet) : State :=
  { X := Vector.replicate 48 0xFF, C := Vector.replicate 16 0xFF, inbox := pkts, outbox := [] }

/-- `n` bytes 0x00. -/
def zeros (n : Nat) : List Byte := List.replicate n 0x00

/-- What one step leaves, read by `f`; `none` where the step stops. -/
def after {α : Type} (s : State) (f : State → α) : Option α :=
  match step s with
  | .next t => some (f t)
  | .fault _ => none
  | .refused _ => none

/-! ### Sizes, table, well-formedness -/

/-- 00_scope.md R5. -/
theorem test_sizes : Buffer = Vector Byte Config.xBytes ∧ Checksum = Vector Byte Config.cBytes ∧
    Block = Vector Byte Config.blockBytes ∧ sRows.flatten.length = Config.sEntries ∧
    Config.xBytes + Config.cBytes = Config.snapshotBytes :=
  ⟨rfl, rfl, rfl, by decide +kernel, rfl⟩

/-- 95_test_vectors.md section 2.1. -/
theorem test_table_reads : S 0x00 = 0x29 ∧ S 0x72 = 0x38 ∧ S 0x7F = 0xF1 ∧ S 0x80 = 0x45 ∧
    S 0xDD = 0x00 ∧ S 0xFE = 0x83 ∧ S 0xFF = 0x14 := by decide +kernel

/-- 30_encoding.md R45: FINALIZE takes at most 15 bytes; the check refuses 16. -/
theorem test_wf_finalize : Instr.wf (.finalize (zeros 15)) = true ∧
    Instr.wf (.finalize (zeros 16)) = false := by decide

/-! ### Decoding, one packet written out per command and per cause of ILLEGAL_COMMAND -/

theorem test_decode_reset : decode [0b00000001] = .ok .reset := by decide
theorem test_decode_compress : decode (0b00000010 :: zeros 15 ++ [0x66]) =
    .ok (.compress #v[0, 0, 0, 0, 0, 0, 0, 0, 0, 0, 0, 0, 0, 0, 0, 0x66]) := by decide +kernel
theorem test_decode_finalize : decode [0b00000011, 0x61, 0x0F] = .ok (.finalize [0x61, 0x0F]) := by
  decide
theorem test_decode_save : decode [0b00000100] = .ok .save := by decide
theorem test_decode_load : decode [0b00000101] = .ok (.load []) ∧
    decode [0b00000101, 0xFF] = .ok (.load [0xFF]) := by decide
theorem test_decode_illegal : decode [] = .error .emptyPacket ∧
    decode [0x06] = .error (.reservedOpcode 0x06) ∧
    decode [0x01, 0x00] = .error (.unexpectedPayload 0x01) ∧
    decode (0x02 :: zeros 17) = .error (.compressLength 17) ∧
    decode (0x03 :: zeros 17) = .error (.finalizeLength 17) := by decide
theorem test_decode_table_words : decodeTableWord 8 1 = some .reset ∧
    decodeTableWord 8 2 = some (.compress (Vector.replicate 16 0x00)) ∧
    decodeTableWord 8 3 = some (.finalize []) ∧ decodeTableWord 8 4 = some .save ∧
    decodeTableWord 8 5 = some (.load (zeros 64)) ∧ decodeTableWord 8 0 = none ∧
    decodeTableWord 16 0x6103 = some (.finalize [0x61]) := by decide +kernel
theorem test_encode : encode (.finalize [0x61, 0x62, 0x63]) = [0x03, 0x61, 0x62, 0x63] ∧
    encode (.load [0x00]) = [0x05, 0x00] := by decide

/-! ### One step of each command -/

/-- R75: RESET on a state of 0xFF bytes. -/
theorem test_step_reset : after (filled [[0x01]]) (fun t => (t.X.toList, t.C.toList, t.outbox)) =
    some (zeros 48, zeros 16, [[0x00]]) := by decide +kernel

/-- 95_test_vectors.md VC1: the block area, the last bytes of `X`, the checksum, the response. -/
theorem test_step_compress : after (fresh [0x02 :: zeros 16])
    (fun t => (t.X.toList.take 8, t.X.toList.drop 44, t.C.toList, t.outbox)) =
    some ([0x31, 0x81, 0x7B, 0x3B, 0xC7, 0x7D, 0x83, 0x57], [0xF2, 0x94, 0xCC, 0x55],
      [0x29, 0x42, 0x79, 0xFC, 0x9F, 0x0F, 0x13, 0xF3, 0xB4, 0x85, 0x71, 0xB8, 0xD3, 0x8B, 0x65, 0xA5],
      [[0x00]]) := by decide +kernel

/-- 95_test_vectors.md VF2: the digest the source demands of `abc`, and `C` as pass 2 leaves it. -/
theorem test_step_finalize : after (fresh [[0x03, 0x61, 0x62, 0x63]])
    (fun t => (t.C.toList.take 4, t.outbox)) =
    some ([0x7A, 0xFE, 0x2E, 0x85], [[0x00, 0xDA, 0x85, 0x3B, 0x0D, 0x3F, 0x88, 0xD9, 0x9B, 0x30, 0x28,
      0x3A, 0x69, 0xE6, 0xDE, 0xD6, 0xBB]]) := by decide +kernel

/-- 95_test_vectors.md VS5: FINALIZE without payload on a state of 0xFF bytes. -/
theorem test_step_finalize_filled : after (filled [[0x03]]) (fun t => (t.C.toList.take 4, t.outbox)) =
    some ([0xCC, 0x8D, 0x14, 0xA1], [[0x00, 0x7E, 0x60, 0x2E, 0xCF, 0xE4, 0x7E, 0xCE, 0x87, 0x04, 0xA9,
      0x1D, 0x39, 0xAA, 0x40, 0xDF, 0x16]]) := by decide +kernel

/-- R78, R80: SAVE answers `X` and then `C` and changes neither. -/
theorem test_step_save : after { fresh [[0x04]] with C := Vector.replicate 16 0xAA }
    (fun t => (t.X.toList, t.C.toList, t.outbox)) =
    some (zeros 48, List.replicate 16 0xAA, [0x00 :: (zeros 48 ++ List.replicate 16 0xAA)]) := by
  decide +kernel

/-- R81: offsets 47 and 48 are the last byte of `X` and the first of `C`. -/
theorem test_step_load : after (filled [0x05 :: (zeros 47 ++ [0x11, 0x22] ++ zeros 15)])
    (fun t => (t.X[46], t.X[47], t.C[0], t.C[1], t.outbox)) =
    some (0x00, 0x11, 0x22, 0x00, [[0x00]]) := by decide +kernel

/-- 95_test_vectors.md VS4: 63 and 65 bytes are malformed and write nothing. -/
theorem test_step_load_malformed :
    after (filled [0x05 :: zeros 63]) (fun t => (t.X[0], t.C[0], t.outbox)) =
      some (0xFF, 0xFF, [[0x01]]) ∧
    after (filled [0x05 :: zeros 65]) (fun t => (t.X[0], t.C[0], t.outbox)) =
      some (0xFF, 0xFF, [[0x01]]) := by decide +kernel

/-- 95_test_vectors.md VE1, VE2, VE6, VE10: illegal packets are answered `02` and write nothing. -/
theorem test_step_illegal :
    after (filled [[], [0x04]]) (fun t => (t.X[0], t.inbox, t.outbox)) =
      some (0xFF, [[0x04]], [[0x02]]) ∧
    after (filled [[0x00]]) State.outbox = some [[0x02]] ∧
    after (filled [[0x01, 0x00]]) (fun t => (t.X[0], t.outbox)) = some (0xFF, [[0x02]]) ∧
    after (filled [0x03 :: zeros 16]) State.outbox = some [[0x02]] := by decide +kernel

/-- R97: no packet, no change. -/
theorem test_step_idle : step State.reset = .next State.reset := rfl

/-! ### The host's side -/

/-- 95_test_vectors.md VH9: a message of 26 bytes, one full block and ten bytes left. -/
theorem test_md2_two_parts : md2 ((List.range 26).map fun k => BitVec.ofNat 8 (97 + k)) =
    [0x4E, 0x8D, 0xDF, 0xF3, 0x65, 0x02, 0x92, 0xAB, 0x5A, 0x41, 0x08, 0xC3, 0xAA, 0x47, 0x94, 0x0B] :=
  by decide +kernel

/-- R57: a message of exactly one block, whose FINALIZE has no payload. -/
theorem test_hash_packets : hashPackets (zeros 16) = [[0x01], 0x02 :: zeros 16, [0x03]] := by
  decide +kernel

/-- 30_encoding.md R56 and section 6. -/
theorem test_assemble :
    assembleLine ['C', 'O', 'M', 'P', 'R', 'E', 'S', 'S', ' ', '0', '0'] = some [[0x02, 0x00]] ∧
    assembleLine (TextWord.finalize.spelling ++ [' ', quoteChar, 'a', 'b', 'c', quoteChar]) =
      some [[0x03, 0x61, 0x62, 0x63]] ∧
    assembleLine ['R', 'A', 'W'] = some [[]] ∧
    assembleLine ['L', 'O', 'A', 'D', ' ', 'f', 'F', ' ', '0', '1', ';', 'x'] = some [[0x05, 0xFF, 0x01]] ∧
    assembleLine [';', ' ', 'n', 'o', 't', 'e'] = some [] ∧
    assembleLine ['S', 'A', 'V', 'E', ' ', '0'] = none := by decide +kernel

/-- 30_encoding.md R56: the text of responses. -/
theorem test_response_text : responseText [0x00] = some "OK" ∧
    responseText [0x01] = some "ERR MALFORMED_STATE" ∧
    responseText [0x02] = some "ERR ILLEGAL_COMMAND" ∧ responseText [0x03] = none := by decide

/-! ### Witnesses: states and operands that meet the hypotheses of the statements -/

theorem test_witness_StepRunsDecodedInstruction :
    (fresh [[0x01], [0x04]]).inbox = [0x01] :: [[0x04]] ∧ decode [0x01] = .ok .reset := by decide

theorem test_witness_IdleStepHoldsState : (filled []).inbox = [] := rfl

theorem test_witness_PlacedTableWordRuns : decodeTableWord 8 4 = some .save := by decide +kernel

theorem test_witness_EncodeDecodeAreInverse :
    Instr.wf (.finalize [0x61]) = true ∧ decode [0x03, 0x61] = .ok (.finalize [0x61]) := by decide

/-- One packet for each clause of the causes, and the nearest legal ones. -/
theorem test_witness_IllegalCommandCauses :
    (fresh [[0x05, 0x00]]).inbox = [0x05, 0x00] :: [] ∧ (fresh [[]]).inbox = [] :: [] ∧
    (5 : Byte).toNat < 6 ∧ 6 ≤ (6 : Byte).toNat ∧ (zeros 15).length ≤ 15 ∧ 16 ≤ (zeros 16).length := by
  decide

theorem test_witness_ResetZeroesState : ([0x00] : List Byte) ≠ [] := by decide

/-- States equal in `X` only, and states equal in `C` only. -/
theorem test_witness_BufferAndChecksumAreSeparate :
    (State.reset.X = ({ State.reset with C := Vector.replicate 16 0xFF } : State).X) ∧
    (State.reset.C = ({ State.reset with X := Vector.replicate 48 0xFF } : State).C) := ⟨rfl, rfl⟩

/-- 30_encoding.md R45: the longest FINALIZE and the shortest packet beyond it. -/
theorem test_witness_DecoderHasSixOutcomes :
    decode (0x03 :: zeros 15) = .ok (.finalize (zeros 15)) ∧
    decode (0x03 :: zeros 16) = .error (.finalizeLength 16) := by decide

/-- 95_test_vectors.md VC7: two states that differ in dead bytes only. -/
theorem test_witness_DeadBytesHaveNoInfluence :
    LiveEqual State.reset
      { State.reset with X := Vector.ofFn fun k : Fin 48 => if k.val < 16 then 0x00 else 0xAA } ∧
    (zeros 15).length ≤ 15 := by
  refine ⟨⟨fun k h => ?_, rfl⟩, by decide⟩
  simp [State.reset, h]

/-- The bounds of the remaining input: 0 and 15 bytes. -/
theorem test_witness_PaddingRepeatsItsCount :
    (zeros 0).length ≤ 15 ∧ (zeros 15).length ≤ 15 ∧ (zeros 15).length ≤ 15 ∧ 14 < (zeros 15).length := by
  decide

theorem test_witness_FinalizeFollowsPseudocode :
    ([] : List Byte).length ≤ 15 ∧ (zeros 15).length ≤ 15 := by decide

theorem test_witness_FinalizeIsTwoCompressions : ([0x61] : List Byte).length ≤ 15 := by decide

theorem test_witness_SecondPassRewritesChecksum :
    ([0x61] : List Byte).length ≤ 15 ∧ 0 + 1 < 16 ∧ 14 + 1 < 16 := by decide

theorem test_witness_OverlongFinalizeIsIllegal : 16 ≤ (zeros 16).length := by decide

theorem test_witness_SaveAnswersSnapshot : ([0x00] : List Byte) ≠ [] := by decide

theorem test_witness_LoadWritesSnapshot : (zeros 64).length = 64 := by decide

/-- The lengths beside 64, and 64 with a next state. -/
theorem test_witness_LoadOfOtherLengthFails : (zeros 63).length ≠ 64 ∧ (zeros 65).length ≠ 64 ∧
    ∃ t, exec (.load (zeros 64)) State.reset = .next t := ⟨by decide, by decide, _, rfl⟩

theorem test_witness_SaveAndLoadAreInverse : (zeros 64).length = 64 := by decide

theorem test_witness_EveryStateIsLoadable : (List.replicate 64 (0xFF : Byte)).length = 64 := by decide

/-- 95_test_vectors.md VS3: two snapshots that differ at offsets 16 to 47 only. -/
theorem test_witness_LiveSnapshotBytesDecide :
    (zeros 64).length = 64 ∧ (zeros 16 ++ List.replicate 32 0xAA ++ zeros 16).length = 64 ∧
    (zeros 64).take 16 = (zeros 16 ++ List.replicate 32 0xAA ++ zeros 16).take 16 ∧
    (zeros 64).drop 48 = (zeros 16 ++ List.replicate 32 0xAA ++ zeros 16).drop 48 ∧
    ([] : List Byte).length ≤ 15 := by decide

/-- One packet for each of the two errors. -/
theorem test_witness_ErrorsHaveNoSideEffect :
    ((fresh [[0x00]]).inbox = [0x00] :: [] ∧
      step (fresh [[0x00]]) = .next { fresh [] with outbox := [[0x02]] } ∧
      ({ fresh [] with outbox := [[0x02]] } : State).outbox = (fresh [[0x00]]).outbox ++ [[0x02]] ∧
      (0x02 : Byte) ≠ 0x00) ∧
    ((fresh [[0x05]]).inbox = [0x05] :: [] ∧
      step (fresh [[0x05]]) = .next { fresh [] with outbox := [[0x01]] } ∧
      ({ fresh [] with outbox := [[0x01]] } : State).outbox = (fresh [[0x05]]).outbox ++ [[0x01]] ∧
      (0x01 : Byte) ≠ 0x00) :=
  ⟨⟨rfl, rfl, rfl, by decide⟩, rfl, rfl, rfl, by decide⟩

theorem test_witness_EveryPacketGetsItsResponse :
    (fresh [[0x04]]).inbox = [0x04] :: [] ∧ decode [0x04] = .ok .save ∧
    decode [0x04, 0x00] = .error (.unexpectedPayload 0x04) := by decide

theorem test_witness_OnlyLoadCanFail :
    Instr.wf (.load (zeros 64)) = true ∧
    ∀ Q : List Byte, Instr.load (zeros 64) = .load Q → Q.length = 64 := by
  refine ⟨rfl, fun Q h => ?_⟩
  cases h
  decide

theorem test_witness_ResponsesStayLegal :
    ResponsesLegal { fresh [[0x00]] with outbox := [[0x00]] } ∧
    step { fresh [[0x00]] with outbox := [[0x00]] } =
      .next { fresh [] with outbox := [[0x00], [0x02]] } := by
  refine ⟨fun rsp h => ?_, rfl⟩
  simp only [List.mem_singleton] at h
  subst h
  decide

theorem test_witness_GivenResponsesNeverChange :
    Host.Core.run core 2 (fresh [[0x00]]) = .next { fresh [] with outbox := [[0x02]] } := rfl

/-- Two engines in the same state with different histories. -/
theorem test_witness_EqualSnapshotsEqualFutures :
    (fresh [[0x04]]).snapshot = ({ fresh [[0x04]] with outbox := [[0x00]] } : State).snapshot ∧
    (fresh [[0x04]]).inbox = ({ fresh [[0x04]] with outbox := [[0x00]] } : State).inbox := ⟨rfl, rfl⟩

theorem test_witness_HashAnswersMd2 :
    (filled (hashPackets (zeros 17) ++ [[0x04]])).inbox = hashPackets (zeros 17) ++ [[0x04]] := rfl

theorem test_witness_ResumeAnswersMd2 :
    Reflects [] State.reset ∧
    (filled (resumePackets State.reset.snapshot (zeros 3) ++ [])).inbox =
      resumePackets State.reset.snapshot (zeros 3) ++ [] := ⟨⟨rfl, rfl, rfl⟩, rfl⟩

theorem test_witness_CommandsTrackTheMessage :
    Reflects [] State.reset ∧ (zeros 15).length ≤ 15 := ⟨⟨rfl, rfl, rfl⟩, by decide⟩

/-- A host that compresses a block, finalizes, resets and then finalizes three bytes. -/
theorem test_witness_ProtocolGivesMd2 :
    (∀ i ∈ [Instr.compress (Vector.replicate 16 0x00), .save, .finalize [], .reset],
      i.wf = true ∧ ∀ Q : List Byte, i ≠ .load Q) ∧ ([0x61, 0x62, 0x63] : List Byte).length ≤ 15 ∧
    abides .initial ([Instr.compress (Vector.replicate 16 0x00), .save, .finalize [], .reset] ++
      [.finalize [0x61, 0x62, 0x63]]) = true ∧
    (fresh (([Instr.compress (Vector.replicate 16 0x00), .save, .finalize [], .reset] ++
      [Instr.finalize [0x61, 0x62, 0x63]]).map encode ++ [])).X = Vector.replicate 48 0x00 := by
  refine ⟨?_, by decide, rfl, rfl⟩
  intro i hi
  simp only [List.mem_cons, List.not_mem_nil, or_false] at hi
  rcases hi with rfl | rfl | rfl | rfl <;> simp [Instr.wf]

theorem test_witness_PhaseTransitions :
    (zeros 15).length ≤ 15 ∧ (zeros 64).length = 64 ∧
    (fresh [[0x05]]).inbox = [0x05] :: [] ∧
    step (fresh [[0x05]]) = .next { fresh [] with outbox := [[0x01]] } ∧
    ({ fresh [] with outbox := [[0x01]] } : State).outbox = (fresh [[0x05]]).outbox ++ [[0x01]] ∧
    (0x01 : Byte) ≠ 0x00 := ⟨by decide, by decide, rfl, rfl, rfl, by decide⟩

theorem test_witness_PhaseFollowsHistory : (zeros 64).length = 64 := by decide

theorem test_witness_OmittedOperandIsEmpty :
    Instr.payload .reset = [] ∧ Instr.payload (.finalize []) = [] ∧ Instr.payload .save = [] ∧
    Instr.payload (.load []) = [] := by decide

/-- 95_test_vectors.md PG3 and PG4: the phases after power-on, COMPRESS, FINALIZE and rejected packets. -/
theorem test_phase_of_history : phaseOf [] = .initial ∧
    phaseOf [0x02 :: zeros 16] = .accumulating ∧
    phaseOf [[0x03], [0x00], [0x05]] = .finalized ∧
    phaseOf [[0x03], [0x01]] = .initial := by decide +kernel

theorem test_witness_EnginesAreIndependent :
    ([State.reset, fresh [[0x00]]] : Engines)[1]? = some (fresh [[0x00]]) ∧ (0 : Nat) ≠ 1 ∧
    step (fresh [[0x00]]) = .next { fresh [] with outbox := [[0x02]] } := ⟨rfl, by decide, rfl⟩

end Sys2Proof.Tests
end

/-! SUPPORT. Proofs of the family 10_state: the power-on state, the substitution table, the dead bytes
of `X`, the phase as a function of the history, and the message the state reflects. -/

namespace Sys2Proof.Machine

/-! ### Power-on -/

/-- Settles O8: both arrays of the reset state are replicated zero bytes. -/
theorem powerOnStateIsZero : Obligations.PowerOnStateIsZero := by
  unfold Obligations.PowerOnStateIsZero
  refine ⟨fun k h => ?_, fun j h => ?_, reset_inbox, reset_outbox⟩
  · simp only [reset_X, Vector.getElem_replicate]
  · simp only [reset_C, Vector.getElem_replicate]

/-! ### The substitution table -/

/-- The index at which a byte stands in the table. -/
def sIndex (v : Byte) : Byte := BitVec.ofNat 8 (sRows.flatten.idxOf v)

/-- Reading the table at the place of a byte gives the byte: one read per byte. -/
theorem S_sIndex : ∀ v : Byte, S (sIndex v) = v := by decide +kernel

theorem S_surjective : Function.Surjective S := fun v => ⟨sIndex v, S_sIndex v⟩

/-- A surjection of a finite type onto itself is an injection. -/
theorem S_injective : Function.Injective S :=
  Finite.injective_iff_surjective.mpr S_surjective

/-- Settles O40: `sIndex` gives every byte its place, so `S` is onto, and the bytes are finitely
many, so it is injective. -/
theorem substitutionTableIsPermutation : Obligations.SubstitutionTableIsPermutation := by
  unfold Obligations.SubstitutionTableIsPermutation
  exact ⟨fun _ _ h => S_injective h, S_surjective⟩

/-! ### The phase -/

/-- R104: the phase after one more packet. -/
theorem phaseOf_concat (pkts : List Packet) (pkt : Packet) :
    phaseOf (pkts ++ [pkt]) = (phaseOf pkts).afterPacket pkt := by
  simp only [phaseOf, Phase.afterAll, List.foldl_append, List.foldl_cons, List.foldl_nil]

/-- R44, R52: LOAD takes a payload of any length. -/
@[simp] theorem decode_load (Q : List Byte) : decode (0x05 :: Q) = .ok (.load Q) := rfl

/-- R44, R52: the packet of RESET is the opcode alone. -/
@[simp] theorem decode_reset : decode [0x01] = .ok .reset := rfl

/-- R105: what a packet that decodes to a command does to the phase. -/
theorem Phase.afterPacket_of_decode {pkt : Packet} {i : Instr} (h : decode pkt = .ok i) (p : Phase) :
    p.afterPacket pkt = p.after i := by
  rw [Phase.afterPacket, h]

/-- Settles O44: the history's phase is a left fold, and RESET and a LOAD of 64 bytes give the same
phase from every phase. -/
theorem phaseFollowsHistory : Obligations.PhaseFollowsHistory := by
  unfold Obligations.PhaseFollowsHistory
  refine ⟨rfl, fun pkts => ⟨phaseOf_concat pkts, ?_, fun Q hQ => ?_⟩⟩
  · rw [phaseOf_concat, Phase.afterPacket_of_decode decode_reset, Phase.after]
  · rw [phaseOf_concat, Phase.afterPacket_of_decode (decode_load Q), Phase.after, if_pos hQ]

/-! ### The dead bytes of the buffer -/

/-- R66: what the rounds leave depends on the block area alone. -/
theorem mix_congr {X Y : Buffer} (B : Block) (h : X.toList.take 16 = Y.toList.take 16) :
    mix X B = mix Y B := by
  rw [← Vector.toList_inj, mix_toList, mix_toList, spread_congr B h]

/-- R23, R66: a compression depends on the block area and the checksum alone. -/
theorem compress_congr {X Y : Buffer} (C : Checksum) (B : Block)
    (h : X.toList.take 16 = Y.toList.take 16) : compress X C B = compress Y C B := by
  rw [compress, compress, mix_congr B h]

/-- The first of FINALIZE's two passes already reads nothing of the dead bytes. -/
theorem finalPasses_congr {X Y : Buffer} (C : Checksum) (P : Block)
    (h : X.toList.take 16 = Y.toList.take 16) : finalPasses X C P = finalPasses Y C P := by
  rw [finalPasses, finalPasses, compress_congr C P h]

/-- R23: states equal in the live bytes have the same block area. -/
theorem LiveEqual.take_eq {s u : State} (h : LiveEqual s u) :
    s.X.toList.take 16 = u.X.toList.take 16 := by
  refine List.ext_getElem (by simp) fun k hk _ => ?_
  have hk16 : k < 16 := by simpa using hk
  simpa using h.1 k hk16

/-- Settles O15: `mix` reads `X[0..15]` only, and `fold` reads no `X`, so both commands compute the
same arrays in both states. -/
theorem deadBytesHaveNoInfluence : Obligations.DeadBytesHaveNoInfluence := by
  unfold Obligations.DeadBytesHaveNoInfluence
  intro s u hlive
  have hX : s.X.toList.take 16 = u.X.toList.take 16 := hlive.take_eq
  have hC : s.C = u.C := hlive.2
  refine ⟨fun B => ⟨_, _, exec_compress B s, exec_compress B u, ?_, ?_⟩, fun R hR =>
    ⟨_, _, _, exec_finalize hR s, exec_finalize hR u, ?_, ?_, rfl, ?_⟩⟩
  · simp only [respond_X, setCore_X, mix_congr B hX]
  · simp only [respond_C, setCore_C, hC]
  all_goals
    simp only [respond_X, setCore_X, respond_C, setCore_C, respond_outbox, setCore_outbox, code_ok,
      hC, finalPasses_congr u.C (padBlock R hR) hX]

/-! ### The blocks and the leftover of a message -/

/-- A block of a message reads the bytes at `16 i` to `16 i + 15` only. -/
theorem blockAt_congr {M N : List Byte} {i k : Nat}
    (h : ∀ j < 16, M.getD (16 * i + j) 0x00 = N.getD (16 * k + j) 0x00) :
    blockAt M i = blockAt N k := by
  simp only [blockAt]
  congr 1
  funext j
  exact h j j.isLt

/-- A full block of a message stays where more bytes follow. -/
theorem blockAt_append_left {M : List Byte} (N : List Byte) {i : Nat} (h : i < M.length / 16) :
    blockAt (M ++ N) i = blockAt M i :=
  blockAt_congr fun j hj => List.getD_append _ _ _ _ (by omega)

/-- Behind full blocks, the blocks are those of what follows. -/
theorem blockAt_append_right {M : List Byte} (N : List Byte) (hM : M.length % 16 = 0) (i : Nat) :
    blockAt (M ++ N) (M.length / 16 + i) = blockAt N i := by
  refine blockAt_congr fun j hj => ?_
  rw [List.getD_append_right _ _ _ _ (by omega)]
  congr 1
  omega

/-- R57: a message that begins with full blocks `M` has the blocks of `M` and then those of the
rest. -/
theorem blocks_append {M : List Byte} (N : List Byte) (hM : M.length % 16 = 0) :
    blocks (M ++ N) = blocks M ++ blocks N := by
  have hcount : (M ++ N).length / 16 = M.length / 16 + N.length / 16 := by
    rw [List.length_append]
    omega
  simp only [blocks, hcount, List.range_add, List.map_append, List.map_map]
  congr 1
  · exact List.map_congr_left fun i hi => blockAt_append_left N (List.mem_range.mp hi)
  · exact List.map_congr_left fun i _ => blockAt_append_right N hM i

/-- R57: the leftover behind full blocks is that of the rest. -/
theorem leftover_append {M : List Byte} (N : List Byte) (hM : M.length % 16 = 0) :
    leftover (M ++ N) = leftover N := by
  have hstart : 16 * ((M ++ N).length / 16) = M.length + 16 * (N.length / 16) := by
    rw [List.length_append]
    omega
  rw [leftover, leftover, hstart, List.drop_append]
  simp

/-- A message of one block has that block alone. -/
theorem blocks_toList (B : Block) : blocks B.toList = [B] := by
  have hB : blockAt B.toList 0 = B := by
    ext j hj
    simp [blockAt]
  simpa [blocks] using hB

/-- A message of fewer than 16 bytes has no full block. -/
theorem blocks_of_short {R : List Byte} (hR : R.length ≤ 15) : blocks R = [] := by
  have hcount : R.length / 16 = 0 := by omega
  simp [blocks, hcount]

/-- A message of fewer than 16 bytes is all leftover. -/
theorem leftover_of_short {R : List Byte} (hR : R.length ≤ 15) : leftover R = R := by
  have hcount : R.length / 16 = 0 := by omega
  simp [leftover, hcount]

/-! ### The message the state reflects -/

/-- R108: one more block is one more compression. -/
theorem absorb_concat (core : Buffer × Checksum) (Bs : List Block) (B : Block) :
    absorb core (Bs ++ [B]) = compress (absorb core Bs).1 (absorb core Bs).2 B := by
  simp only [absorb, List.foldl_append, List.foldl_cons, List.foldl_nil]

/-- R67, R108: MD2 is the digest of FINALIZE's two passes on what the full blocks leave. -/
theorem md2_eq_digest {M R : List Byte} (hM : M.length % 16 = 0)
    (hR : R.length ≤ Config.maxRemaining) :
    md2 (M ++ R) = digest (finalPasses (absorb zeroCore (blocks M)).1
      (absorb zeroCore (blocks M)).2 (padBlock R hR)).1 := by
  have hblocks : blocks (M ++ R) = blocks M := by
    rw [blocks_append R hM, blocks_of_short hR, List.append_nil]
  have hleft : leftover (M ++ R) = R := by
    rw [leftover_append R hM, leftover_of_short hR]
  simp only [md2, hblocks, hleft, finalPasses, digest]

/-- Whether a state reflects a message is a matter of `X` and `C`. -/
theorem Reflects.congr {M : List Byte} {s t : State} (h : Reflects M s) (hX : t.X = s.X)
    (hC : t.C = s.C) : Reflects M t :=
  ⟨h.1, hX.trans h.2.1, hC.trans h.2.2⟩

/-- R21: after COMPRESS the state reflects the message with the block. -/
theorem Reflects.compress {M : List Byte} {s : State} (h : Reflects M s) (B : Block) :
    Reflects (M ++ B.toList) ((s.setCore (mix s.X B) (fold s.C B)).respond .ok []) := by
  obtain ⟨hlen, hX, hC⟩ := h
  have habs : absorb zeroCore (blocks (M ++ B.toList)) = (mix s.X B, fold s.C B) := by
    rw [blocks_append _ hlen, blocks_toList, absorb_concat, ← hX, ← hC, Machine.compress]
  refine ⟨?_, ?_, ?_⟩
  · simp [hlen]
  · rw [respond_X, setCore_X, habs]
  · rw [respond_C, setCore_C, habs]

/-- R75: a state with zero `X` and `C` reflects the empty message. -/
theorem reflects_nil {s : State} (hX : s.X = Vector.replicate 48 0x00)
    (hC : s.C = Vector.replicate 16 0x00) : Reflects [] s :=
  ⟨rfl, hX, hC⟩

/-- R106: where the state reflects a message, FINALIZE answers the digest of the message with the
remaining input. -/
theorem Reflects.finalize {M R : List Byte} {s : State} (h : Reflects M s)
    (hR : R.length ≤ Config.maxRemaining) :
    digest (finalPasses s.X s.C (padBlock R hR)).1 = md2 (M ++ R) := by
  obtain ⟨hlen, hX, hC⟩ := h
  rw [md2_eq_digest hlen hR, hX, hC]

/-- Settles O37: COMPRESS adds the block to the fold over the message's blocks, SAVE keeps `X` and
`C`, RESET zeroes them, and FINALIZE does the two passes of `md2`. -/
theorem commandsTrackTheMessage : Obligations.CommandsTrackTheMessage := by
  unfold Obligations.CommandsTrackTheMessage
  intro s M h
  refine ⟨fun B => ⟨_, exec_compress B s, h.compress B⟩,
    ⟨_, exec_save s, h.congr (respond_X ..) (respond_C ..)⟩,
    ⟨_, exec_reset s, reflects_nil rfl rfl⟩,
    fun R hR => ⟨_, exec_finalize hR s, ?_⟩⟩
  rw [respond_outbox, setCore_outbox, code_ok, h.finalize hR]

end Sys2Proof.Machine

/-! SUPPORT. Proofs of the family 20_memory: what a step does with the oldest waiting packet, that
every command answers once, and the frame of a step among several engines. -/

namespace Sys2Proof.Machine

/-! ### The packet a step runs -/

/-- R37: with a packet waiting, the step runs it on the state without it. -/
theorem step_of_waiting {s : State} {pkt : Packet} {rest : List Packet} (h : s.inbox = pkt :: rest) :
    step s = runPacket pkt { s with inbox := rest } := by
  rw [step, takePacket_cons h]

/-- R52: a packet that decodes to a command runs it. -/
theorem runPacket_of_decode_ok {pkt : Packet} {i : Instr} (h : decode pkt = .ok i) (s : State) :
    runPacket pkt s = exec i s := by
  rw [runPacket, h]

/-- R88: a packet that is no command raises ILLEGAL_COMMAND. -/
theorem runPacket_of_decode_error {pkt : Packet} {e : Illegal} (h : decode pkt = .error e)
    (s : State) : runPacket pkt s = raise .illegalCommand s := by
  rw [runPacket, h]

/-- Settles O1: the step takes the packet, and the packet runs the command it decodes to. -/
theorem stepRunsDecodedInstruction : Obligations.StepRunsDecodedInstruction := by
  unfold Obligations.StepRunsDecodedInstruction
  intro s pkt rest i hin hdec
  rw [step_of_waiting hin, runPacket_of_decode_ok hdec]

/-! ### Every packet is answered once -/

/-- R42, R51: `r` is a next state that has given one response more than `s` and has the packets of
`s` waiting. -/
def AnswersOnce (s : State) (r : Result) : Prop :=
  ∃ (t : State) (rsp : Packet), r = .next t ∧ t.inbox = s.inbox ∧ t.outbox = s.outbox ++ [rsp]

/-- R49: a response from a state with the same two packet lists is one answer. -/
theorem answersOnce_respond {s u : State} (hin : u.inbox = s.inbox) (hout : u.outbox = s.outbox)
    (st : Status) (d : List Byte) : AnswersOnce s (.next (u.respond st d)) :=
  ⟨_, _, rfl, by rw [respond_inbox, hin], by rw [respond_outbox, hout]⟩

/-- R90: an error is one answer. -/
theorem answersOnce_raise (e : EngineError) (s : State) : AnswersOnce s (raise e s) :=
  answersOnce_respond rfl rfl (.error e) []

/-- R51: every command is answered once, in every state. -/
theorem answersOnce_exec (i : Instr) (s : State) : AnswersOnce s (exec i s) := by
  cases i with
  | reset =>
    rw [exec_reset]
    exact answersOnce_respond (clearCore_inbox s) (clearCore_outbox s) ..
  | compress B =>
    rw [exec_compress]
    exact answersOnce_respond (setCore_inbox ..) (setCore_outbox ..) ..
  | finalize R =>
    by_cases hR : R.length ≤ Config.maxRemaining
    · rw [exec_finalize hR]
      exact answersOnce_respond (setCore_inbox ..) (setCore_outbox ..) ..
    · rw [exec_finalize_overlong hR]
      exact answersOnce_raise ..
  | save =>
    rw [exec_save]
    exact answersOnce_respond rfl rfl ..
  | load Q =>
    by_cases hQ : Q.length = 64
    · rw [exec_load hQ]
      exact answersOnce_respond (setCore_inbox ..) (setCore_outbox ..) ..
    · rw [exec_load_other hQ]
      exact answersOnce_raise ..

/-- R42: every packet, command or not, is answered once. -/
theorem answersOnce_runPacket (pkt : Packet) (s : State) : AnswersOnce s (runPacket pkt s) := by
  cases hdec : decode pkt with
  | ok i =>
    rw [runPacket_of_decode_ok hdec]
    exact answersOnce_exec i s
  | error e =>
    rw [runPacket_of_decode_error hdec]
    exact answersOnce_raise ..

/-- R37, R42: a step with a packet waiting takes that packet and answers it once. -/
theorem step_answers_waiting {s : State} {pkt : Packet} {rest : List Packet}
    (h : s.inbox = pkt :: rest) :
    ∃ (t : State) (rsp : Packet), step s = .next t ∧ t.inbox = rest ∧
      t.outbox = s.outbox ++ [rsp] := by
  rw [step_of_waiting h]
  exact answersOnce_runPacket pkt { s with inbox := rest }

/-- A run of `k + 1` steps is a step and then a run of `k`. -/
theorem run_succ_of_step {s t : State} (h : step s = .next t) (k : Nat) :
    Host.Core.run core (k + 1) s = Host.Core.run core k t := by
  have hcore : core.step s = .next t := h
  simp only [Host.Core.run, hcore]

/-- R114: a run of one step per waiting packet takes the packets and answers each of them. -/
theorem run_answers_waiting (pkts : List Packet) {s : State} (h : s.inbox = pkts) :
    ∃ (t : State) (rs : List Packet), Host.Core.run core pkts.length s = .next t ∧ t.inbox = [] ∧
      t.outbox = s.outbox ++ rs ∧ rs.length = pkts.length := by
  induction pkts generalizing s with
  | nil => exact ⟨s, [], rfl, h, (List.append_nil _).symm, rfl⟩
  | cons pkt rest ih =>
    obtain ⟨u, rsp, hstep, huin, huout⟩ := step_answers_waiting h
    obtain ⟨t, rs, hrun, htin, htout, hlen⟩ := ih huin
    refine ⟨t, rsp :: rs, ?_, htin, ?_, congrArg (· + 1) hlen⟩
    · rw [List.length_cons, run_succ_of_step hstep, hrun]
    · rw [htout, huout, List.append_assoc, List.singleton_append]

/-- Settles O30, by induction on the waiting packets. -/
theorem waitingPacketsAreAllAnswered : Obligations.WaitingPacketsAreAllAnswered := by
  unfold Obligations.WaitingPacketsAreAllAnswered
  exact fun s => run_answers_waiting s.inbox rfl

/-! ### Several engines -/

/-- R98: where engine `k` exists and its step answers a next state, that state is written to it. -/
theorem stepEngine_of_step {k : Nat} {es : Engines} {s t : State} (hk : es[k]? = some s)
    (hstep : step s = .next t) : stepEngine k es = es.set k t := by
  simp only [stepEngine, hk, hstep]

/-- R98: stepping engine `k` writes at most the state of engine `k`. -/
theorem stepEngine_eq_self_or_set (k : Nat) (es : Engines) :
    stepEngine k es = es ∨ ∃ t : State, stepEngine k es = es.set k t := by
  cases hk : es[k]? with
  | none => exact .inl (by simp only [stepEngine, hk])
  | some s =>
    cases hstep : step s with
    | next t => exact .inr ⟨t, stepEngine_of_step hk hstep⟩
    | fault r => exact .inl (by simp only [stepEngine, hk, hstep])
    | refused r => exact .inl (by simp only [stepEngine, hk, hstep])

/-- R41: the other engines keep their states. -/
theorem stepEngine_getElem?_of_ne {k m : Nat} (h : m ≠ k) (es : Engines) :
    (stepEngine k es)[m]? = es[m]? := by
  obtain hself | ⟨t, hset⟩ := stepEngine_eq_self_or_set k es
  · rw [hself]
  · rw [hset, List.getElem?_set_ne h.symm]

/-- R98: the engine that steps has the state its own step answers. -/
theorem stepEngine_getElem?_self {k : Nat} {es : Engines} {s t : State} (hk : es[k]? = some s)
    (hstep : step s = .next t) : (stepEngine k es)[k]? = some t := by
  obtain ⟨hlt, -⟩ := List.getElem?_eq_some_iff.mp hk
  rw [stepEngine_of_step hk hstep, List.getElem?_set_self hlt]

/-- Settles O42: a step of engine `k` writes place `k` of the list and no other. -/
theorem enginesAreIndependent : Obligations.EnginesAreIndependent := by
  unfold Obligations.EnginesAreIndependent
  exact fun es k => ⟨fun _ hne => stepEngine_getElem?_of_ne hne es,
    fun _ _ hk hstep => stepEngine_getElem?_self hk hstep⟩

end Sys2Proof.Machine

/-! SUPPORT. Proofs of the family 30_encoding: decoder and encoder as inverses, the response each
packet gets, the packets of HASH and RESUME, and lines of text without an operand. -/

namespace Sys2Proof.Machine

/-! ### The decoder and the encoder -/

/-- R52: a block's bytes, read back as a block, are the block. -/
theorem decodeCommand_compress (B : Block) :
    decodeCommand opCompress B.toList = .ok (.compress B) :=
  dif_pos B.size_toArray

/-- R47, R52: FINALIZE takes a payload of at most 15 bytes. -/
theorem decodeCommand_finalize {R : List Byte} (hR : R.length ≤ Config.maxRemaining) :
    decodeCommand opFinalize R = .ok (.finalize R) :=
  if_pos hR

/-- R43 to R48, R52: the packet of a well-formed command decodes to it. -/
theorem decode_encode {i : Instr} (h : i.wf = true) : decode (encode i) = .ok i := by
  cases i with
  | reset => rfl
  | compress B => exact decodeCommand_compress B
  | finalize R => exact decodeCommand_finalize (of_decide_eq_true h)
  | save => rfl
  | load Q => rfl

/-- R45, R52: what decodes to a command has the command's opcode, its payload and a length the
command takes. -/
theorem decodeCommand_eq_ok {op : Byte} {Q : List Byte} {i : Instr}
    (h : decodeCommand op Q = .ok i) : i.wf = true ∧ i.opcode = op ∧ i.payload = Q := by
  unfold decodeCommand at h
  split_ifs at h with hop hlen hop hlen hop hlen hop hlen hop <;> cases h
  · exact ⟨rfl, hop.symm, (List.length_eq_zero_iff.mp hlen).symm⟩
  · exact ⟨rfl, hop.symm, rfl⟩
  · exact ⟨decide_eq_true hlen, hop.symm, rfl⟩
  · exact ⟨rfl, hop.symm, (List.length_eq_zero_iff.mp hlen).symm⟩
  · exact ⟨rfl, hop.symm, rfl⟩

/-- R52: the packets that decode to a command are the encodings of the well-formed one. -/
theorem decode_eq_ok_iff {pkt : Packet} {i : Instr} :
    decode pkt = .ok i ↔ i.wf = true ∧ pkt = encode i := by
  constructor
  · intro h
    cases pkt with
    | nil => cases h
    | cons op Q =>
      obtain ⟨hwf, hop, hpay⟩ := decodeCommand_eq_ok h
      exact ⟨hwf, by rw [encode, hop, hpay]⟩
  · rintro ⟨hwf, rfl⟩
    exact decode_encode hwf

/-- Settles O5: the encoding of each command passes the decoder's length test, and each legal branch
of the decoder gives a command with the packet's opcode and payload. -/
theorem encodeDecodeAreInverse : Obligations.EncodeDecodeAreInverse := by
  unfold Obligations.EncodeDecodeAreInverse
  refine ⟨fun _ => decode_encode, fun pkt i h => ?_⟩
  obtain ⟨hwf, hpkt⟩ := decode_eq_ok_iff.mp h
  exact ⟨hwf, hpkt.symm⟩

/-- R52: ILLEGAL is the outcome of every packet that decodes to no command. -/
theorem decode_eq_error_iff {pkt : Packet} :
    (∃ e, decode pkt = .error e) ↔ ∀ i : Instr, decode pkt ≠ .ok i := by
  cases decode pkt <;> simp

/-- A property of every command is one of each of the five. -/
theorem forall_instr {p : Instr → Prop} :
    (∀ i, p i) ↔ p .reset ∧ (∀ B, p (.compress B)) ∧ (∀ R, p (.finalize R)) ∧ p .save ∧
      ∀ Q, p (.load Q) := by
  refine ⟨fun h => ⟨h _, fun _ => h _, fun _ => h _, h _, fun _ => h _⟩, ?_⟩
  rintro ⟨hreset, hcompress, hfinalize, hsave, hload⟩ (_ | B | R | _ | Q)
  exacts [hreset, hcompress B, hfinalize R, hsave, hload Q]

/-- R46, R52: the packets of RESET. -/
theorem decode_eq_reset {pkt : Packet} : decode pkt = .ok .reset ↔ pkt = [0x01] :=
  decode_eq_ok_iff.trans (and_iff_right rfl)

/-- R46, R52: the packets of COMPRESS. -/
theorem decode_eq_compress {pkt : Packet} (B : Block) :
    decode pkt = .ok (.compress B) ↔ pkt = 0x02 :: B.toList :=
  decode_eq_ok_iff.trans (and_iff_right rfl)

/-- R47, R52: the packets of FINALIZE. -/
theorem decode_eq_finalize {pkt : Packet} (R : List Byte) :
    decode pkt = .ok (.finalize R) ↔ R.length ≤ 15 ∧ pkt = 0x03 :: R :=
  decode_eq_ok_iff.trans (and_congr_left' decide_eq_true_iff)

/-- R46, R52: the packets of SAVE. -/
theorem decode_eq_save {pkt : Packet} : decode pkt = .ok .save ↔ pkt = [0x04] :=
  decode_eq_ok_iff.trans (and_iff_right rfl)

/-- R48, R52: the packets of LOAD. -/
theorem decode_eq_load {pkt : Packet} (Q : List Byte) :
    decode pkt = .ok (.load Q) ↔ pkt = 0x05 :: Q :=
  decode_eq_ok_iff.trans (and_iff_right rfl)

/-- Settles O6: the legal outcomes by the encodings of their commands, and the illegal one as the
outcome of all other packets. -/
theorem decoderHasSixOutcomes : Obligations.DecoderHasSixOutcomes := by
  unfold Obligations.DecoderHasSixOutcomes
  refine fun pkt => ⟨decode_eq_reset, decode_eq_compress, decode_eq_finalize, decode_eq_save,
    decode_eq_load, ?_⟩
  simp only [decode_eq_error_iff, forall_instr, ne_eq, decode_eq_reset, decode_eq_compress,
    decode_eq_finalize, decode_eq_save, decode_eq_load, not_and]

/-! ### The response of each packet -/

/-- R51: a command the decoder makes gets one response, of the form the table gives for it. -/
theorem exec_response_fits {i : Instr} (h : i.wf = true) (s : State) :
    ∃ (t : State) (rsp : Packet), exec i s = .next t ∧ t.inbox = s.inbox ∧
      t.outbox = s.outbox ++ [rsp] ∧ responseFits i rsp := by
  cases i with
  | reset => exact ⟨_, _, exec_reset s, rfl, rfl, rfl⟩
  | compress B => exact ⟨_, _, exec_compress B s, rfl, rfl, rfl⟩
  | finalize R =>
    exact ⟨_, _, exec_finalize (of_decide_eq_true h) s, rfl, rfl, _, digest_length _, rfl⟩
  | save => exact ⟨_, _, exec_save s, rfl, rfl, _, snapshot_length s, rfl⟩
  | load Q =>
    by_cases hQ : Q.length = 64
    · exact ⟨_, _, exec_load hQ s, rfl, rfl, .inl ⟨hQ, rfl⟩⟩
    · exact ⟨_, _, exec_load_other hQ s, rfl, rfl, .inr ⟨hQ, rfl⟩⟩

/-- R42, R51: a step with a packet waiting takes it and gives one response: of the form of the
command it decodes to, or `02` where it decodes to none. -/
theorem step_response_fits {s : State} {pkt : Packet} {rest : List Packet}
    (h : s.inbox = pkt :: rest) :
    ∃ (t : State) (rsp : Packet), step s = .next t ∧ t.inbox = rest ∧
      t.outbox = s.outbox ++ [rsp] ∧
      (∀ i : Instr, decode pkt = .ok i → responseFits i rsp) ∧
      (∀ e : Illegal, decode pkt = .error e → rsp = [0x02]) := by
  rw [step_of_waiting h]
  cases hdec : decode pkt with
  | ok i =>
    obtain ⟨t, rsp, hexec, hin, hout, hfits⟩ :=
      exec_response_fits (decode_eq_ok_iff.mp hdec).1 { s with inbox := rest }
    refine ⟨t, rsp, (runPacket_of_decode_ok hdec _).trans hexec, hin, hout, ?_, nofun⟩
    rintro _ ⟨⟩
    exact hfits
  | error e =>
    exact ⟨_, _, runPacket_of_decode_error hdec _, rfl, rfl, nofun, fun _ _ => rfl⟩

/-- Settles O29: the step runs the packet, and the response is that of its command's meaning or of
`raise`. -/
theorem everyPacketGetsItsResponse : Obligations.EveryPacketGetsItsResponse := by
  unfold Obligations.EveryPacketGetsItsResponse
  exact fun _ _ _ => step_response_fits

/-! ### Responses stay legal and stay as they are -/

/-- R50, R51: OK with 0, 16 or 64 bytes of data is a response of the engine. -/
theorem legalResponse_ok {d : List Byte} (h : d.length = 0 ∨ d.length = 16 ∨ d.length = 64) :
    legalResponse (0x00 :: d) = true := by
  rcases h with h | h | h <;> simp [legalResponse, h]

/-- R49 to R51: what fits a command is a response of the engine. -/
theorem legalResponse_of_fits {i : Instr} {rsp : Packet} (h : responseFits i rsp) :
    legalResponse rsp = true := by
  cases i with
  | reset =>
    obtain rfl : rsp = [0x00] := h
    rfl
  | compress B =>
    obtain rfl : rsp = [0x00] := h
    rfl
  | finalize R =>
    obtain ⟨d, hd, rfl⟩ := h
    exact legalResponse_ok (.inr (.inl hd))
  | save =>
    obtain ⟨d, hd, rfl⟩ := h
    exact legalResponse_ok (.inr (.inr hd))
  | load Q =>
    obtain ⟨-, rfl⟩ | ⟨-, rfl⟩ := h <;> rfl

/-- R42, R97: every step answers a next state, whose outbox is the old one and at most one response
more, of a legal form. -/
theorem step_extends_outbox (s : State) :
    ∃ (t : State) (rs : List Packet), step s = .next t ∧ t.outbox = s.outbox ++ rs ∧
      ∀ rsp ∈ rs, legalResponse rsp = true := by
  cases hin : s.inbox with
  | nil => exact ⟨s, [], by rw [step, takePacket_none.mpr hin], (List.append_nil _).symm, nofun⟩
  | cons pkt rest =>
    obtain ⟨t, rsp, hstep, -, hout, hok, herr⟩ := step_response_fits hin
    refine ⟨t, [rsp], hstep, hout, List.forall_mem_singleton.mpr ?_⟩
    cases hdec : decode pkt with
    | ok i => exact legalResponse_of_fits (hok i hdec)
    | error e => rw [herr e hdec]; rfl

/-- Settles O31: the step keeps the responses there are and adds at most a legal one. -/
theorem responsesStayLegal : Obligations.ResponsesStayLegal := by
  unfold Obligations.ResponsesStayLegal
  intro s t hs hstep
  obtain ⟨u, rs, hu, hout, hrs⟩ := step_extends_outbox s
  obtain rfl : u = t := Host.Outcome.next.inj (hu.symm.trans hstep)
  intro rsp hmem
  rw [hout, List.mem_append] at hmem
  exact hmem.elim (hs rsp) (hrs rsp)

/-- R51: a run of any length only adds responses behind those there are. -/
theorem run_extends_outbox (n : Nat) {s t : State} (h : Host.Core.run core n s = .next t) :
    ∃ rs : List Packet, t.outbox = s.outbox ++ rs := by
  induction n generalizing s with
  | zero =>
    obtain rfl : s = t := Host.Outcome.next.inj h
    exact ⟨[], (List.append_nil _).symm⟩
  | succ n ih =>
    obtain ⟨u, rs, hstep, hout, -⟩ := step_extends_outbox s
    rw [run_succ_of_step hstep] at h
    obtain ⟨rs', hrest⟩ := ih h
    exact ⟨rs ++ rs', by rw [hrest, hout, List.append_assoc]⟩

/-- Settles O33, by induction on the number of steps. -/
theorem givenResponsesNeverChange : Obligations.GivenResponsesNeverChange := by
  unfold Obligations.GivenResponsesNeverChange
  exact fun n _ _ => run_extends_outbox n

/-! ### HASH and RESUME -/

/-- R52: a step on the packet of a well-formed command runs the command. -/
theorem step_encode {s : State} {i : Instr} {rest : List Packet} (hwf : i.wf = true)
    (h : s.inbox = encode i :: rest) : step s = exec i { s with inbox := rest } :=
  stepRunsDecodedInstruction s _ rest i h (decode_encode hwf)

/-- One answer `00` and then `n` of them are `n + 1`. -/
theorem append_answer_replicate (out : List Packet) (n : Nat) :
    out ++ [[0x00]] ++ List.replicate n [0x00] = out ++ List.replicate (n + 1) [0x00] := by
  rw [List.append_assoc, List.singleton_append, List.replicate_succ]

/-- R59: a step on the packet of COMPRESS compresses the block and answers `00`. -/
theorem step_compress {s : State} {B : Block} {rest : List Packet}
    (h : s.inbox = encode (.compress B) :: rest) :
    ∃ u : State, step s = .next u ∧ u.inbox = rest ∧ (u.X, u.C) = compress s.X s.C B ∧
      u.outbox = s.outbox ++ [[0x00]] :=
  ⟨_, (step_encode rfl h).trans (exec_compress B _), rfl, rfl, rfl⟩

/-- R67: a step on the packet of FINALIZE answers `00` and the digest of the two passes. -/
theorem step_finalize {s : State} {R : List Byte} (hR : R.length ≤ Config.maxRemaining)
    {rest : List Packet} (h : s.inbox = encode (.finalize R) :: rest) :
    ∃ u : State, step s = .next u ∧ u.inbox = rest ∧
      u.outbox = s.outbox ++ [0x00 :: digest (finalPasses s.X s.C (padBlock R hR)).1] :=
  ⟨_, (step_encode (i := .finalize R) (decide_eq_true hR) h).trans (exec_finalize hR _), rfl, rfl⟩

/-- R57, R67: COMPRESS for each block and FINALIZE with the rest are answered `00` each and then
with the digest of the two passes on what the blocks leave. -/
theorem run_compress_finalize (Bs : List Block) {R : List Byte} (hR : R.length ≤ Config.maxRemaining)
    {s : State} {rest : List Packet}
    (h : s.inbox = (Bs.map Instr.compress ++ [Instr.finalize R]).map encode ++ rest) :
    ∃ t : State, Host.Core.run core (Bs.length + 1) s = .next t ∧ t.inbox = rest ∧
      t.outbox = s.outbox ++ List.replicate Bs.length [0x00] ++
        [0x00 :: digest (finalPasses (absorb (s.X, s.C) Bs).1 (absorb (s.X, s.C) Bs).2
          (padBlock R hR)).1] := by
  induction Bs generalizing s with
  | nil =>
    obtain ⟨t, hstep, hin, hout⟩ := step_finalize hR h
    refine ⟨t, run_succ_of_step hstep 0, hin, ?_⟩
    rw [hout, List.length_nil, List.replicate_zero, List.append_nil, absorb, List.foldl_nil]
  | cons B Bs ih =>
    obtain ⟨u, hstep, huin, hcore, huout⟩ := step_compress h
    obtain ⟨t, hrun, hin, hout⟩ := ih huin
    have habsorb : absorb (s.X, s.C) (B :: Bs) = absorb (u.X, u.C) Bs := by
      rw [hcore]
      rfl
    refine ⟨t, (run_succ_of_step hstep _).trans hrun, hin, ?_⟩
    rw [hout, huout, habsorb, append_answer_replicate, List.length_cons]

/-- R57: a message has `L / 16` full blocks. -/
@[simp] theorem blocks_length (M : List Byte) : (blocks M).length = M.length / 16 := by
  simp [blocks]

/-- R108: where the state reflects `M`, the blocks and the leftover of `N` lead to the digest of `M`
followed by `N`. -/
theorem Reflects.digest_eq_md2 {M : List Byte} {s : State} (h : Reflects M s) (N : List Byte) :
    digest (finalPasses (absorb (s.X, s.C) (blocks N)).1 (absorb (s.X, s.C) (blocks N)).2
      (padBlock (leftover N) (leftover_length N))).1 = md2 (M ++ N) := by
  obtain ⟨hlen, hX, hC⟩ := h
  have habsorb : absorb zeroCore (blocks M ++ blocks N) = absorb (s.X, s.C) (blocks N) := by
    rw [hX, hC, absorb, List.foldl_append]
    rfl
  simp only [md2, blocks_append N hlen, leftover_append N hlen, habsorb, finalPasses, digest]

/-- R57, R58: where the state reflects `M`, the packets of the body of `N` are answered `00` each
and the last one with `00` and the digest of `M` followed by `N`. -/
theorem Reflects.run_body {M : List Byte} {s : State} (h : Reflects M s) {N : List Byte}
    {rest : List Packet} (hin : s.inbox = (bodyCommands N).map encode ++ rest) :
    ∃ t : State, Host.Core.run core (N.length / 16 + 1) s = .next t ∧ t.inbox = rest ∧
      t.outbox = s.outbox ++ List.replicate (N.length / 16) [0x00] ++ [0x00 :: md2 (M ++ N)] := by
  obtain ⟨t, hrun, htin, hout⟩ := run_compress_finalize (blocks N) (leftover_length N) hin
  rw [blocks_length] at hrun hout
  exact ⟨t, hrun, htin, by rw [hout, h.digest_eq_md2]⟩

/-- R57, R58: a first step answered `00`, after which the state reflects `M`, makes one response
more before those of the body. -/
theorem Reflects.run_opened_body {M N : List Byte} {s u : State} {rest : List Packet}
    (h : Reflects M u) (hstep : step s = .next u) (hout : u.outbox = s.outbox ++ [[0x00]])
    (hin : u.inbox = (bodyCommands N).map encode ++ rest) :
    ∃ t : State, Host.Core.run core (N.length / 16 + 2) s = .next t ∧ t.inbox = rest ∧
      t.outbox =
        s.outbox ++ List.replicate (N.length / 16 + 1) [0x00] ++ [0x00 :: md2 (M ++ N)] := by
  obtain ⟨t, hrun, htin, htout⟩ := h.run_body hin
  refine ⟨t, (run_succ_of_step hstep _).trans hrun, htin, ?_⟩
  rw [htout, hout, append_answer_replicate]

/-- Settles O35: RESET makes the state reflect the empty message, and the body then adds `M`. -/
theorem hashAnswersMd2 : Obligations.HashAnswersMd2 := by
  unfold Obligations.HashAnswersMd2
  intro s M rest h
  have hstep := (step_encode rfl h).trans (exec_reset _)
  exact (reflects_nil rfl rfl).run_opened_body hstep rfl rfl

/-- R81, R84: loading the snapshot of a state gives its buffer back. -/
theorem snapshotBuffer_snapshot (u : State) :
    snapshotBuffer u.snapshot (snapshot_length u) = u.X := by
  rw [← Vector.toList_inj, snapshotBuffer_toList, snapshot_take]

/-- R81, R84: loading the snapshot of a state gives its checksum back. -/
theorem snapshotChecksum_snapshot (u : State) :
    snapshotChecksum u.snapshot (snapshot_length u) = u.C := by
  rw [← Vector.toList_inj, snapshotChecksum_toList, snapshot_drop]

/-- R81, R84: a step on the packet of LOAD with the snapshot of `u` gives the engine the `X` and `C`
of `u` and answers `00`. -/
theorem step_load_snapshot {s : State} (u : State) {rest : List Packet}
    (h : s.inbox = encode (.load u.snapshot) :: rest) :
    ∃ v : State, step s = .next v ∧ v.inbox = rest ∧ v.X = u.X ∧ v.C = u.C ∧
      v.outbox = s.outbox ++ [[0x00]] :=
  ⟨_, (step_encode rfl h).trans (exec_load (snapshot_length u) _), rfl, snapshotBuffer_snapshot u,
    snapshotChecksum_snapshot u, rfl⟩

/-- Settles O36: LOAD of the snapshot makes the engine reflect what the suspended state reflected,
and the body then adds the rest. -/
theorem resumeAnswersMd2 : Obligations.ResumeAnswersMd2 := by
  unfold Obligations.ResumeAnswersMd2
  intro u M hu s M' rest h
  obtain ⟨v, hstep, hin, hX, hC, hout⟩ := step_load_snapshot u h
  exact (hu.congr hX hC).run_opened_body hstep hout hin

/-! ### Lines without an operand -/

/-- R56: a line that is a word and nothing more is the word with no operand. -/
theorem assembleLine_spelling (w : TextWord) : assembleLine w.spelling = assembleWord w [] := by
  cases w <;> rfl

/-- R56: the word of a command with no operand is the packet of its opcode alone. -/
theorem assembleWord_commandWord_nil (i : Instr) :
    assembleWord (commandWord i) [] = some [[i.opcode]] := by
  cases i <;> rfl

/-- Settles O45: the line is its word with no operand, and such a word is the opcode alone, which is
the packet of a command with no payload. -/
theorem omittedOperandIsEmpty : Obligations.OmittedOperandIsEmpty := by
  unfold Obligations.OmittedOperandIsEmpty
  refine ⟨fun i hi => ?_, assembleLine_spelling .raw⟩
  rw [assembleLine_spelling, assembleWord_commandWord_nil, encode, hi]

end Sys2Proof.Machine

/-! SUPPORT. Proofs of the family 40_compress: the layout of the buffer, the chain of the checksum, and
the two list passes of COMPRESS as the indexed loops of the pseudocode. -/

namespace Sys2Proof.Machine

/-! ### Steps 1 and 2: the three regions of the buffer -/

/-- R60: the block area is as it was. -/
theorem spread_block_area (X : Buffer) (B : Block) {j : Nat} (h : j < 16) :
    (spread X B)[j]? = some X[j] := by
  rw [spread, List.append_assoc, List.getElem?_append_left (by simpa using h)]
  simp [h]

/-- R60: the input area holds the block. -/
theorem spread_input_area (X : Buffer) (B : Block) {j : Nat} (h : j < 16) :
    (spread X B)[16 + j]? = some B[j] := by
  rw [spread, List.append_assoc, List.getElem?_append_right (by simp),
    List.getElem?_append_left (by simpa using h)]
  simp

/-- R61: the xor area holds the block xored with the block area. -/
theorem spread_xor_area (X : Buffer) (B : Block) {j : Nat} (h : j < 16) :
    (spread X B)[32 + j]? = some (B[j] ^^^ X[j]) := by
  rw [spread, List.getElem?_append_right (by simp)]
  simp [h]

/-- Settles O11: each region is one of the three lists that `spread` appends. -/
theorem stepsOneAndTwoLayOutBuffer : Obligations.StepsOneAndTwoLayOutBuffer := by
  unfold Obligations.StepsOneAndTwoLayOutBuffer
  exact fun X B _ h => ⟨spread_block_area X B h, spread_input_area X B h, spread_xor_area X B h⟩

/-! ### Step 4: the chain of the checksum -/

/-- R63: each byte written by step 4 comes from the byte before it in the list that `l` opens. -/
theorem chain_getElem (l : Byte) (cs bs : List Byte) (j : Nat) (hc : j < cs.length)
    (hb : j < bs.length) (h : j < (chain l cs bs).length) :
    (chain l cs bs)[j] =
      cs[j] ^^^ S (bs[j] ^^^ (l :: chain l cs bs)[j]'(Nat.lt_succ_of_lt h)) := by
  induction j generalizing l cs bs with
  | zero =>
    obtain ⟨c, cs, rfl⟩ := List.exists_cons_of_length_pos hc
    obtain ⟨b, bs, rfl⟩ := List.exists_cons_of_length_pos hb
    rfl
  | succ j ih =>
    obtain ⟨c, cs, rfl⟩ := List.exists_cons_of_length_pos (Nat.zero_lt_of_lt hc)
    obtain ⟨b, bs, rfl⟩ := List.exists_cons_of_length_pos (Nat.zero_lt_of_lt hb)
    exact ih _ cs bs (Nat.lt_of_succ_lt_succ hc) (Nat.lt_of_succ_lt_succ hb)
      (Nat.lt_of_succ_lt_succ h)

/-- R63: each new checksum byte comes from the one before it in the list that the old `C[15]` opens. -/
theorem fold_getElem (C : Checksum) (B : Block) {j : Nat} (h : j < 16) :
    (fold C B)[j] =
      C[j] ^^^ S (B[j] ^^^ (C[15] :: (fold C B).toList)[j]'(by simp; omega)) := by
  have hchain := chain_getElem C[15] C.toList B.toList j (by simpa using h) (by simpa using h)
    (by rwa [← fold_toList, Vector.length_toList])
  simpa only [← fold_toList, Vector.getElem_toList] using hchain

/-- R63: `C[0]` comes from the old `C[15]`. -/
theorem fold_getElem_zero (C : Checksum) (B : Block) :
    (fold C B)[0] = C[0] ^^^ S (B[0] ^^^ C[15]) :=
  fold_getElem C B (by decide)

/-- R63: `C[j + 1]` comes from the new `C[j]`. -/
theorem fold_getElem_succ (C : Checksum) (B : Block) {j : Nat} (h : j + 1 < 16) :
    (fold C B)[j + 1] = C[j + 1] ^^^ S (B[j + 1] ^^^ (fold C B)[j]) := by
  simpa only [List.getElem_cons_succ, Vector.getElem_toList] using fold_getElem C B h

/-- Settles O13: the new checksum is `fold`, whose bytes are chained from the old `C[15]`. -/
theorem compressChainsChecksum : Obligations.CompressChainsChecksum := by
  unfold Obligations.CompressChainsChecksum
  exact fun s B => ⟨_, exec_compress B s, fold_getElem_zero s.C B, fun _ h => fold_getElem_succ s.C B h⟩

/-! ### The two halves of COMPRESS are separate -/

/-- Settles O14: the new `X` is `mix` of the old `X`, and the new `C` is `fold` of the old `C`. -/
theorem bufferAndChecksumAreSeparate : Obligations.BufferAndChecksumAreSeparate := by
  unfold Obligations.BufferAndChecksumAreSeparate
  refine fun s u B => ⟨_, _, exec_compress B s, exec_compress B u, fun hX => ?_, fun hC => ?_⟩
  · simp only [respond_X, setCore_X, hX]
  · simp only [respond_C, setCore_C, hC]

/-! ### The loops of the pseudocode -/

/-- An index inside the sequence reads its byte. -/
theorem cellsOf_of_lt {n k : Nat} (v : Vector Byte n) (h : k < n) : cellsOf v k = v[k] :=
  dif_pos h

/-- R8: one more iteration comes last. -/
theorem forLoop_succ {σ : Type} (n : Nat) (body : Nat → σ → σ) (start : σ) :
    forLoop (n + 1) body start = body n (forLoop n body start) := rfl

/-- R8: a counted loop is a fold over its indices. -/
theorem forLoop_eq_foldl {σ : Type} (n : Nat) (body : Nat → σ → σ) (start : σ) :
    forLoop n body start = (List.range n).foldl (fun r j => body j r) start := by
  induction n with
  | zero => rfl
  | succ n ih =>
    rw [forLoop_succ, List.range_succ, List.foldl_append, ← ih, List.foldl_cons, List.foldl_nil]

/-- R60, R61: a loop that fills the `n` cells from `a` on, with values read below `a` only, leaves
those values there and the other cells as they were. -/
theorem forLoop_put_apply (a n : Nat) (g : Nat → Cells → Byte) (X : Cells)
    (hg : ∀ j < n, ∀ Y : Cells, (∀ i < a, Y i = X i) → g j Y = g j X) (k : Nat) :
    forLoop n (fun j X => put X (a + j) (g j X)) X k =
      if a ≤ k ∧ k < a + n then g (k - a) X else X k := by
  induction n generalizing k with
  | zero => exact (if_neg (by omega)).symm
  | succ n ih =>
    specialize ih fun j hj => hg j (Nat.lt_succ_of_lt hj)
    have hbelow := fun i (hi : i < a) => (ih i).trans (if_neg (by omega))
    rw [forLoop_succ, put, hg n n.lt_succ_self _ hbelow, ih k]
    by_cases hk : k = a + n
    · rw [if_pos hk, if_pos (by omega), hk, Nat.add_sub_cancel_left]
    · rw [if_neg hk]
      exact if_congr (by omega) rfl rfl

/-- R60: the cells after step 1. -/
theorem pseudoLoad_apply (X B : Cells) (k : Nat) :
    pseudoLoad X B k = if 16 ≤ k ∧ k < 32 then B (k - 16) else X k :=
  forLoop_put_apply 16 16 (fun j _ => B j) X (fun _ _ _ _ => rfl) k

/-- R61: the cells after step 2. -/
theorem pseudoXor_apply (X : Cells) (k : Nat) :
    pseudoXor X k = if 32 ≤ k ∧ k < 48 then X (16 + (k - 32)) ^^^ X (k - 32) else X k :=
  forLoop_put_apply 32 16 (fun j X => X (16 + j) ^^^ X j) X
    (fun j hj Y hY => by rw [hY (16 + j) (by omega), hY j (by omega)]) k

/-- The body of the inner loop of step 3 and of the loop of step 4: cell `k` and the running byte
both become `f k` of the cell and the running byte. -/
def writeStep (f : Nat → Byte → Byte → Byte) (k : Nat) (r : Cells × Byte) : Cells × Byte :=
  (put r.1 k (f k (r.1 k) r.2), f k (r.1 k) r.2)

/-- A cell holds what the running byte was just after its own iteration, and its old value before. -/
theorem forLoop_writeStep_cell (f : Nat → Byte → Byte → Byte) (n : Nat) (r : Cells × Byte) (k : Nat) :
    (forLoop n (writeStep f) r).1 k =
      if k < n then (forLoop (k + 1) (writeStep f) r).2 else r.1 k := by
  induction n with
  | zero => rfl
  | succ n ih =>
    have hput : (forLoop (n + 1) (writeStep f) r).1 k =
        if k = n then (forLoop (n + 1) (writeStep f) r).2 else (forLoop n (writeStep f) r).1 k := rfl
    rw [hput]
    by_cases hk : k = n
    · rw [if_pos hk, if_pos (by omega), hk]
    · rw [if_neg hk, ih]
      exact if_congr (by omega) rfl rfl

/-- The running byte comes from the cell as it was before the loop. -/
theorem forLoop_writeStep_byte (f : Nat → Byte → Byte → Byte) (n : Nat) (r : Cells × Byte) :
    (forLoop (n + 1) (writeStep f) r).2 = f n (r.1 n) (forLoop n (writeStep f) r).2 := by
  have hcell : (forLoop n (writeStep f) r).1 n = r.1 n := by
    rw [forLoop_writeStep_cell, if_neg n.lt_irrefl]
  rw [forLoop_succ, writeStep, hcell]

/-! ### Steps 1 to 3 as the pseudocode's loops -/

/-- The bytes of the first `n` cells. -/
def readCells (n : Nat) (X : Cells) : List Byte := (List.range n).map X

/-- One more cell gives one more byte at the end. -/
theorem readCells_succ (n : Nat) (X : Cells) : readCells (n + 1) X = readCells n X ++ [X n] := by
  rw [readCells, List.range_succ, List.map_append, List.map_singleton, readCells]

/-- The byte at an index is that of its cell. -/
theorem readCells_getElem? {n k : Nat} (X : Cells) (h : k < n) : (readCells n X)[k]? = some (X k) := by
  rw [readCells, List.getElem?_map, List.getElem?_range h, Option.map_some]

/-- Cells that agree below `n` have the same first `n` bytes. -/
theorem readCells_congr {n : Nat} {X Y : Cells} (h : ∀ k < n, X k = Y k) :
    readCells n X = readCells n Y :=
  List.map_congr_left fun k hk => h k (List.mem_range.mp hk)

/-- A sequence whose bytes are those of the cells has at each index what the cell holds. -/
theorem getElem_of_toList_eq_readCells {n k : Nat} {v : Vector Byte n} {X : Cells}
    (hv : v.toList = readCells n X) (h : k < n) : v[k] = X k := by
  have hread := readCells_getElem? X h
  rw [← hv, List.getElem?_eq_getElem (by simpa using h), Vector.getElem_toList] at hread
  exact Option.some.inj hread

/-- R60, R61: steps 1 and 2 of the pseudocode leave the three regions of `spread`. -/
theorem spread_eq_readCells (X : Buffer) (B : Block) :
    spread X B = readCells 48 (pseudoXor (pseudoLoad (cellsOf X) (cellsOf B))) := by
  refine List.ext_getElem? fun k => ?_
  obtain hk | ⟨hlo, hhi⟩ | ⟨hlo, hhi⟩ | hk :
      k < 16 ∨ (16 ≤ k ∧ k < 32) ∨ (32 ≤ k ∧ k < 48) ∨ 48 ≤ k := by omega
  · rw [spread_block_area X B hk, readCells_getElem? _ (by omega), pseudoXor_apply,
      if_neg (by omega), pseudoLoad_apply, if_neg (by omega), cellsOf_of_lt X]
  · obtain ⟨j, rfl⟩ := Nat.exists_eq_add_of_le hlo
    rw [spread_input_area X B (by omega), readCells_getElem? _ (by omega), pseudoXor_apply,
      if_neg (by omega), pseudoLoad_apply, if_pos (by omega), Nat.add_sub_cancel_left,
      cellsOf_of_lt B]
  · obtain ⟨j, rfl⟩ := Nat.exists_eq_add_of_le hlo
    have hj : j < 16 := by omega
    rw [spread_xor_area X B hj, readCells_getElem? _ hhi, pseudoXor_apply, if_pos ⟨hlo, hhi⟩,
      Nat.add_sub_cancel_left, pseudoLoad_apply, if_pos (by omega), pseudoLoad_apply,
      if_neg (by omega), Nat.add_sub_cancel_left, cellsOf_of_lt B hj, cellsOf_of_lt X]
  · rw [List.getElem?_eq_none (by rwa [spread_length]),
      List.getElem?_eq_none (by simpa [readCells] using hk)]

/-- One more iteration keeps the bytes written so far and adds the running byte. -/
theorem readCells_forLoop_succ (f : Nat → Byte → Byte → Byte) (n : Nat) (r : Cells × Byte) :
    readCells (n + 1) (forLoop (n + 1) (writeStep f) r).1 =
      readCells n (forLoop n (writeStep f) r).1 ++ [(forLoop (n + 1) (writeStep f) r).2] := by
  have hbefore : ∀ k < n, (forLoop (n + 1) (writeStep f) r).1 k = (forLoop n (writeStep f) r).1 k := by
    intro k hk
    rw [forLoop_writeStep_cell, forLoop_writeStep_cell, if_pos hk, if_pos (Nat.lt_succ_of_lt hk)]
  rw [readCells_succ, readCells_congr hbefore, forLoop_writeStep_cell, if_pos n.lt_succ_self]

/-- R62: the inner loop of one round over the first `n` cells is a sweep over their bytes. -/
theorem sweep_readCells (n : Nat) (r : Cells × Byte) :
    sweep r.2 (readCells n r.1) =
      (readCells n (forLoop n (writeStep fun _ x t => x ^^^ S t) r).1,
        (forLoop n (writeStep fun _ x t => x ^^^ S t) r).2) := by
  induction n with
  | zero => rfl
  | succ n ih =>
    rw [readCells_succ, sweep_append, ih, sweep, sweep, readCells_forLoop_succ,
      forLoop_writeStep_byte]

/-- R62: one round of the machine, on the bytes and the running byte. -/
def roundStep (r : List Byte × Byte) (j : Nat) : List Byte × Byte :=
  ((sweep r.2 r.1).1, (sweep r.2 r.1).2 + BitVec.ofNat 8 j)

/-- R62: the rounds are a fold of one round over their numbers. -/
theorem rounds_eq_foldl (js : List Nat) (t : Byte) (bytes : List Byte) :
    rounds js t bytes = (js.foldl roundStep (bytes, t)).1 := by
  induction js generalizing t bytes with
  | nil => rfl
  | cons j js ih => exact ih _ _

/-- The machine's view of a state of the pseudocode's rounds: the bytes and the running byte. -/
def roundView (r : Cells × Byte) : List Byte × Byte := (readCells 48 r.1, r.2)

/-- R62: a round of the machine does to the view what a round of the pseudocode does to the cells. -/
theorem roundStep_roundView (r : Cells × Byte) (j : Nat) :
    roundStep (roundView r) j =
      roundView ((pseudoRound r).1, (pseudoRound r).2 + BitVec.ofNat 8 j) := by
  have hsweep : sweep r.2 (readCells 48 r.1) = roundView (pseudoRound r) := sweep_readCells 48 r
  rw [roundStep, roundView, hsweep, roundView, roundView]

/-- R62: step 3 of the pseudocode is the machine's rounds on the bytes of the cells. -/
theorem rounds_readCells (X : Cells) :
    rounds (List.range Config.rounds) 0x00 (readCells 48 X) = readCells 48 (pseudoRounds X) := by
  have hview := List.foldl_hom roundView (l := List.range Config.rounds) (init := (X, 0x00))
    roundStep_roundView
  rw [rounds_eq_foldl, pseudoRounds, forLoop_eq_foldl]
  exact congrArg Prod.fst hview

/-- R60 to R62: the new `X` is what steps 1 to 3 of the pseudocode leave. -/
theorem mix_getElem (X : Buffer) (B : Block) {k : Nat} (h : k < 48) :
    (mix X B)[k] = pseudoRounds (pseudoXor (pseudoLoad (cellsOf X) (cellsOf B))) k :=
  getElem_of_toList_eq_readCells (by rw [mix_toList, spread_eq_readCells, rounds_readCells]) h

/-! ### Step 4 as the pseudocode's loop -/

/-- R63: the cells and the running byte after `n` iterations of step 4 of the pseudocode. -/
def checksumLoop (C : Checksum) (B : Block) (n : Nat) : Cells × Byte :=
  forLoop n (writeStep fun j c l => c ^^^ S (cellsOf B j ^^^ l)) (cellsOf C, C[15])

/-- R63: the running byte after one more iteration. -/
theorem checksumLoop_byte (C : Checksum) (B : Block) {j : Nat} (h : j < 16) :
    (checksumLoop C B (j + 1)).2 = C[j] ^^^ S (B[j] ^^^ (checksumLoop C B j).2) := by
  rw [← cellsOf_of_lt C h, ← cellsOf_of_lt B h]
  exact forLoop_writeStep_byte _ j _

/-- R63: the running byte after iteration `j` is the new `C[j]`. -/
theorem fold_getElem_eq_running (C : Checksum) (B : Block) {j : Nat} (h : j < 16) :
    (fold C B)[j] = (checksumLoop C B (j + 1)).2 := by
  induction j with
  | zero => exact (fold_getElem_zero C B).trans (checksumLoop_byte C B h).symm
  | succ j ih => rw [fold_getElem_succ C B h, ih (Nat.lt_of_succ_lt h), checksumLoop_byte C B h]

/-- R63: the new `C` is what step 4 of the pseudocode leaves. -/
theorem fold_getElem_eq_pseudo (C : Checksum) (B : Block) {j : Nat} (h : j < 16) :
    (fold C B)[j] = pseudoChecksum (cellsOf C) (cellsOf B) j := by
  have hcell : (checksumLoop C B 16).1 j = (checksumLoop C B (j + 1)).2 :=
    (forLoop_writeStep_cell _ 16 _ j).trans (if_pos h)
  exact (fold_getElem_eq_running C B h).trans hcell.symm

/-- Settles O12: the new `X` is `mix`, a sweep at a time the pseudocode's rounds, and the new `C` is
`fold`, a byte at a time the pseudocode's step 4. -/
theorem compressFollowsPseudocode : Obligations.CompressFollowsPseudocode := by
  unfold Obligations.CompressFollowsPseudocode
  refine fun s B => ⟨_, exec_compress B s, fun k h => ?_, fun j h => ?_, rfl, rfl, rfl⟩
  · simp only [respond_X, setCore_X, pseudoCompress, mix_getElem s.X B h]
  · simp only [respond_C, setCore_C, pseudoCompress, fold_getElem_eq_pseudo s.C B h]

end Sys2Proof.Machine

/-! SUPPORT. Proofs of the family 41_finalize: the padded block, the two passes of FINALIZE as two
compressions, and both passes against the pseudocode. -/

namespace Sys2Proof.Machine

/-! ### The padded block -/

/-- R68: the first bytes of the padded block are the remaining input. -/
theorem padBlock_getElem_input {R : List Byte} (hR : R.length ≤ 15) {i : Nat} (h : i < R.length) :
    (padBlock R hR)[i] = R[i] :=
  List.getElem_append_left h

/-- R68: every later byte of the padded block is the count of the bytes added. -/
theorem padBlock_getElem_added {R : List Byte} (hR : R.length ≤ 15) {i : Nat} (h : i < 16)
    (hi : R.length ≤ i) : (padBlock R hR)[i] = BitVec.ofNat 8 (16 - R.length) :=
  (List.getElem_append_right hi).trans (List.getElem_replicate _)

/-- Settles O16: the padded block is the remaining input with the added bytes appended. -/
theorem paddingRepeatsItsCount : Obligations.PaddingRepeatsItsCount := by
  unfold Obligations.PaddingRepeatsItsCount
  exact fun R hR => ⟨by omega, by omega, fun _ h => padBlock_getElem_input hR h,
    fun _ h hi => padBlock_getElem_added hR h hi⟩

/-! ### The two passes as two compressions -/

/-- Settles O18: both passes are `compress`, the second on the checksum that the first leaves. -/
theorem finalizeIsTwoCompressions : Obligations.FinalizeIsTwoCompressions := by
  unfold Obligations.FinalizeIsTwoCompressions
  refine fun s R hR => ⟨_, _, _, exec_compress _ s, exec_compress _ _, exec_finalize hR s,
    ?_, ?_, rfl, ?_⟩ <;>
  simp only [respond_X, respond_C, respond_outbox, setCore_X, setCore_C, setCore_outbox, code_ok,
    finalPasses_eq, digest]

/-- Settles O19: the checksum after pass 2 is `fold` of the one after pass 1, which is also its block. -/
theorem secondPassRewritesChecksum : Obligations.SecondPassRewritesChecksum := by
  unfold Obligations.SecondPassRewritesChecksum
  refine fun s R hR => ⟨_, _, exec_compress _ s, exec_finalize hR s, ?_, fun j h => ?_⟩ <;>
  simp only [respond_C, setCore_C, finalPasses_eq]
  · exact fold_getElem_zero _ _
  · exact fold_getElem_succ _ _ h

/-! ### The cells of the pseudocode that stand for a sequence of bytes -/

/-- The cells hold the bytes of the sequence; what they hold past its end is left open, as the cells
of the pseudocode's padded block and of its next state are no `cellsOf`. -/
def Holds {n : Nat} (v : Vector Byte n) (X : Cells) : Prop := ∀ (k : Nat) (h : k < n), v[k] = X k

theorem holds_cellsOf {n : Nat} (v : Vector Byte n) : Holds v (cellsOf v) :=
  fun _ h => (cellsOf_of_lt v h).symm

/-- Inside the sequence, cells that hold it agree with its indexed reads. -/
theorem Holds.cellsOf_eq {n : Nat} {v : Vector Byte n} {X : Cells} (hv : Holds v X) {k : Nat}
    (h : k < n) : cellsOf v k = X k :=
  (cellsOf_of_lt v h).trans (hv k h)

/-- R68: the pseudocode's padded block holds the padded block. -/
theorem padBlock_holds {R : List Byte} (hR : R.length ≤ 15) : Holds (padBlock R hR) (pseudoPad R) := by
  intro i h
  rw [pseudoPad]
  split
  case isTrue hi => rw [padBlock_getElem_input hR hi, List.getD_eq_getElem R _ hi]
  case isFalse hi => exact padBlock_getElem_added hR h (Nat.le_of_not_lt hi)

/-! ### One pass on cells that hold the state and the block -/

/-- R60: step 1 reads 48 cells of the buffer and 16 of the block. -/
theorem pseudoLoad_congr {X Y A B : Cells} (hX : ∀ k < 48, X k = Y k) (hB : ∀ j < 16, A j = B j) :
    ∀ k < 48, pseudoLoad X A k = pseudoLoad Y B k := by
  intro k hk
  rw [pseudoLoad_apply, pseudoLoad_apply, hX k hk]
  split
  · rw [hB (k - 16) (by omega)]
  · rfl

/-- R61: step 2 reads 48 cells of the buffer. -/
theorem pseudoXor_congr {X Y : Cells} (hX : ∀ k < 48, X k = Y k) :
    ∀ k < 48, pseudoXor X k = pseudoXor Y k := by
  intro k hk
  rw [pseudoXor_apply, pseudoXor_apply, hX k hk]
  split
  · rw [hX (16 + (k - 32)) (by omega), hX (k - 32) (by omega)]
  · rfl

/-- R60 to R62: the new `X` is held by what steps 1 to 3 leave of cells that hold `X` and the block. -/
theorem mix_holds {X : Buffer} {B : Block} {x b : Cells} (hX : Holds X x) (hB : Holds B b) :
    Holds (mix X B) (pseudoRounds (pseudoXor (pseudoLoad x b))) := by
  have hlayout : spread X B = readCells 48 (pseudoXor (pseudoLoad x b)) :=
    (spread_eq_readCells X B).trans <| readCells_congr <| pseudoXor_congr <|
      pseudoLoad_congr (fun _ => hX.cellsOf_eq) (fun _ => hB.cellsOf_eq)
  exact fun k h => getElem_of_toList_eq_readCells (by rw [mix_toList, hlayout, rounds_readCells]) h

/-- The running byte after `n` iterations depends on what these do with it and on nothing else. -/
theorem forLoop_writeStep_byte_congr {f g : Nat → Byte → Byte → Byte} {r q : Cells × Byte} {n : Nat}
    (hbody : ∀ j < n, f j (r.1 j) = g j (q.1 j)) (hbyte : r.2 = q.2) :
    (forLoop n (writeStep f) r).2 = (forLoop n (writeStep g) q).2 := by
  induction n with
  | zero => exact hbyte
  | succ n ih =>
    rw [forLoop_writeStep_byte, forLoop_writeStep_byte, hbody n n.lt_succ_self,
      ih fun j hj => hbody j (Nat.lt_succ_of_lt hj)]

/-- R63: what iteration `j` of step 4 writes, from the byte of the checksum and the running byte. -/
def checksumStep (B : Cells) (j : Nat) (c l : Byte) : Byte := c ^^^ S (B j ^^^ l)

/-- R63: step 4 leaves in each cell the running byte just after its own iteration. -/
theorem pseudoChecksum_apply (C B : Cells) {j : Nat} (h : j < 16) :
    pseudoChecksum C B j = (forLoop (j + 1) (writeStep (checksumStep B)) (C, C 15)).2 :=
  (forLoop_writeStep_cell (checksumStep B) 16 (C, C 15) j).trans (if_pos h)

/-- R63: step 4 reads 16 cells of the checksum and 16 of the block. -/
theorem pseudoChecksum_congr {C D A B : Cells} (hC : ∀ j < 16, C j = D j) (hB : ∀ j < 16, A j = B j)
    {j : Nat} (h : j < 16) : pseudoChecksum C A j = pseudoChecksum D B j := by
  rw [pseudoChecksum_apply C A h, pseudoChecksum_apply D B h]
  refine forLoop_writeStep_byte_congr (fun i hi => ?_) (hC 15 (by decide))
  have hi16 : i < 16 := by omega
  funext l
  simp only [checksumStep, hC i hi16, hB i hi16]

/-- R63: the new `C` is held by what step 4 leaves of cells that hold `C` and the block. -/
theorem fold_holds {C : Checksum} {B : Block} {c b : Cells} (hC : Holds C c) (hB : Holds B b) :
    Holds (fold C B) (pseudoChecksum c b) :=
  fun _ h => (fold_getElem_eq_pseudo C B h).trans <|
    pseudoChecksum_congr (fun _ => hC.cellsOf_eq) (fun _ => hB.cellsOf_eq) h

/-- R59: a compression of the machine and one of the pseudocode keep the same bytes. -/
theorem compress_holds {X : Buffer} {C : Checksum} {B : Block} {r : Cells × Cells} {b : Cells}
    (hX : Holds X r.1) (hC : Holds C r.2) (hB : Holds B b) :
    Holds (compress X C B).1 (pseudoCompress r b).1 ∧
      Holds (compress X C B).2 (pseudoCompress r b).2 :=
  ⟨mix_holds hX hB, fold_holds hC hB⟩

/-! ### Both passes, and the response -/

/-- R67: pass 2 is a compression of what pass 1 left, by cells that hold it. -/
theorem finalPasses_holds {X : Buffer} {C : Checksum} {R : List Byte} {r : Cells × Cells}
    (hX : Holds X r.1) (hC : Holds C r.2) (hR : R.length ≤ 15) :
    Holds (finalPasses X C (padBlock R hR)).1 (pseudoFinalize r R).1 ∧
      Holds (finalPasses X C (padBlock R hR)).2 (pseudoFinalize r R).2 := by
  obtain ⟨hX₁, hC₁⟩ := compress_holds hX hC (padBlock_holds hR)
  exact compress_holds hX₁ hC₁ hC₁

/-- R71: byte `k` of the digest is `X[k]`. -/
theorem digest_getElem? (X : Buffer) {k : Nat} (h : k < 16) : (digest X)[k]? = some X[k] := by
  rw [digest, List.getElem?_take_of_lt h, Vector.getElem?_toList, Vector.getElem?_eq_getElem]

/-- Settles O17: the cells of the state hold `X` and `C`, and both passes keep it so. -/
theorem finalizeFollowsPseudocode : Obligations.FinalizeFollowsPseudocode := by
  unfold Obligations.FinalizeFollowsPseudocode
  intro s R hR
  obtain ⟨hX, hC⟩ := finalPasses_holds (r := (cellsOf s.X, cellsOf s.C))
    (holds_cellsOf s.X) (holds_cellsOf s.C) hR
  exact ⟨_, _, exec_finalize hR s, hX, hC, rfl, rfl, digest_length _, fun _ => digest_getElem? _, rfl⟩

end Sys2Proof.Machine

/-! SUPPORT. Proofs of the family 42_reset: what RESET does, and that two engines in the same `X` and
`C` answer the same packets alike, whatever they answered before. -/

namespace Sys2Proof.Machine

/-! ### What RESET does -/

/-- R54: the opcode of RESET with a payload is no command. -/
theorem decode_reset_payload {Q : List Byte} (hQ : Q ≠ []) :
    decode (0x01 :: Q) = .error (.unexpectedPayload 0x01) := by
  rw [decode, decodeCommand, if_pos rfl, if_neg (mt List.length_eq_zero_iff.mp hQ)]

/-- Settles O9: RESET's next state is cleared and answered, and its packet is the opcode alone. -/
theorem resetZeroesState : Obligations.ResetZeroesState := by
  unfold Obligations.ResetZeroesState
  refine ⟨fun s => ⟨_, exec_reset s, fun k h => ?_, fun j h => ?_, rfl, rfl⟩, rfl,
    fun _ hQ => ⟨_, decode_reset_payload hQ⟩, fun _ => ⟨rfl, rfl⟩⟩
  · simp only [respond_X, clearCore_X, Vector.getElem_replicate]
  · simp only [respond_C, clearCore_C, Vector.getElem_replicate]

/-! ### Engines that differ in the responses given so far -/

/-- R13: the same `X` and `C`, and the same packets to come; the responses given may differ. -/
structure SameButResponses (s u : State) : Prop where
  X : s.X = u.X
  C : s.C = u.C
  inbox : s.inbox = u.inbox

/-- R13: from `s` and from `u` the two results go on to states alike, having given the same further
responses. -/
def AnswersAlike (s u : State) (r q : Result) : Prop :=
  ∃ (t v : State) (rs : List Packet), r = .next t ∧ q = .next v ∧ SameButResponses t v ∧
    t.outbox = s.outbox ++ rs ∧ v.outbox = u.outbox ++ rs

/-- R49: the same response, given in states that are alike, leaves them alike. -/
theorem answersAlike_respond {s u t v : State} (h : SameButResponses t v)
    (ht : t.outbox = s.outbox) (hv : v.outbox = u.outbox) (st : Status) (d : List Byte) :
    AnswersAlike s u (.next (t.respond st d)) (.next (v.respond st d)) :=
  ⟨_, _, [st.code :: d], rfl, rfl, ⟨h.X, h.C, h.inbox⟩, by rw [respond_outbox, ht],
    by rw [respond_outbox, hv]⟩

/-- R18, R20: a command that writes the same `X` and `C` in both states and gives the same response
leaves them alike. -/
theorem answersAlike_setCore_respond {s u : State} (h : s.inbox = u.inbox) (X : Buffer)
    (C : Checksum) (st : Status) (d : List Byte) :
    AnswersAlike s u (.next ((s.setCore X C).respond st d)) (.next ((u.setCore X C).respond st d)) :=
  have hwritten : SameButResponses (s.setCore X C) (u.setCore X C) := ⟨rfl, rfl, h⟩
  answersAlike_respond hwritten rfl rfl st d

/-- R90: the same error in states that are alike leaves them alike. -/
theorem SameButResponses.raise {s u : State} (h : SameButResponses s u) (e : EngineError) :
    AnswersAlike s u (raise e s) (raise e u) :=
  answersAlike_respond h rfl rfl (.error e) []

/-- R31: the snapshot is of `X` and `C` alone. -/
theorem SameButResponses.snapshot_eq {s u : State} (h : SameButResponses s u) :
    s.snapshot = u.snapshot := by
  rw [State.snapshot, State.snapshot, h.X, h.C]

/-- R13: a command reads `X` and `C` and nothing else of the state. -/
theorem SameButResponses.exec {s u : State} (h : SameButResponses s u) (i : Instr) :
    AnswersAlike s u (exec i s) (exec i u) := by
  cases i with
  | reset =>
    rw [exec_reset, exec_reset]
    exact answersAlike_setCore_respond h.inbox ..
  | compress B =>
    rw [exec_compress, exec_compress, h.X, h.C]
    exact answersAlike_setCore_respond h.inbox ..
  | finalize R =>
    by_cases hR : R.length ≤ Config.maxRemaining
    · rw [exec_finalize hR, exec_finalize hR, h.X, h.C]
      exact answersAlike_setCore_respond h.inbox ..
    · rw [exec_finalize_overlong hR, exec_finalize_overlong hR]
      exact h.raise _
  | save =>
    rw [exec_save, exec_save, h.snapshot_eq]
    exact answersAlike_respond h rfl rfl ..
  | load Q =>
    by_cases hQ : Q.length = 64
    · rw [exec_load hQ, exec_load hQ]
      exact answersAlike_setCore_respond h.inbox ..
    · rw [exec_load_other hQ, exec_load_other hQ]
      exact h.raise _

/-- R42, R52: a packet, command or not, is answered alike in states that are alike. -/
theorem SameButResponses.runPacket {s u : State} (h : SameButResponses s u) (pkt : Packet) :
    AnswersAlike s u (runPacket pkt s) (runPacket pkt u) := by
  cases hdec : decode pkt with
  | ok i =>
    rw [runPacket_of_decode_ok hdec, runPacket_of_decode_ok hdec]
    exact h.exec i
  | error e =>
    rw [runPacket_of_decode_error hdec, runPacket_of_decode_error hdec]
    exact h.raise _

/-- R13, R97: one step, on a packet or idle, from states that are alike. -/
theorem SameButResponses.step {s u : State} (h : SameButResponses s u) :
    AnswersAlike s u (step s) (step u) := by
  cases hin : s.inbox with
  | nil =>
    have hu : u.inbox = [] := h.inbox ▸ hin
    rw [Machine.step, Machine.step, takePacket_none.mpr hin, takePacket_none.mpr hu]
    exact ⟨s, u, [], rfl, rfl, h, (List.append_nil _).symm, (List.append_nil _).symm⟩
  | cons pkt rest =>
    have hu : u.inbox = pkt :: rest := h.inbox ▸ hin
    have htaken : SameButResponses { s with inbox := rest } { u with inbox := rest } :=
      ⟨h.X, h.C, rfl⟩
    rw [step_of_waiting hin, step_of_waiting hu]
    exact htaken.runPacket pkt

/-- R13, R79: any number of steps from states that are alike. -/
theorem SameButResponses.run {s u : State} (h : SameButResponses s u) (n : Nat) :
    AnswersAlike s u (Host.Core.run core n s) (Host.Core.run core n u) := by
  induction n generalizing s u with
  | zero => exact ⟨s, u, [], rfl, rfl, h, (List.append_nil _).symm, (List.append_nil _).symm⟩
  | succ n ih =>
    obtain ⟨s', u', rs, hs, hu, h', hsout, huout⟩ := h.step
    obtain ⟨t, v, rs', ht, hv, hend, htout, hvout⟩ := ih h'
    refine ⟨t, v, rs ++ rs', (run_succ_of_step hs n).trans ht, (run_succ_of_step hu n).trans hv,
      hend, ?_, ?_⟩
    · rw [htout, hsout, List.append_assoc]
    · rw [hvout, huout, List.append_assoc]

/-! ### RESET against power-on and against LOAD -/

/-- R100: the snapshot of the power-on state is 64 bytes 0x00. -/
theorem snapshot_reset : State.reset.snapshot = List.replicate 64 0x00 := by
  rw [State.snapshot, reset_X, reset_C, Vector.toList_replicate, Vector.toList_replicate,
    List.replicate_append_replicate]

/-- R76: RESET has the effect of a LOAD of 64 bytes 0x00, in every state. -/
theorem exec_load_zeros (s : State) : exec (.load (List.replicate 64 0x00)) s = exec .reset s := by
  rw [← snapshot_reset, exec_load (snapshot_length _), snapshotBuffer_snapshot,
    snapshotChecksum_snapshot, exec_reset]
  rfl

/-- Settles O10: after RESET the engine is like the one just powered on, but for the responses
given, and runs keep them alike. -/
theorem resetGivesCreationState : Obligations.ResetGivesCreationState := by
  unfold Obligations.ResetGivesCreationState
  intro s pkts n
  have hreset := exec_reset { s with inbox := pkts }
  have halike : SameButResponses ({ s with inbox := pkts }.clearCore.respond .ok [])
      { State.reset with inbox := pkts } := ⟨rfl, rfl, rfl⟩
  obtain ⟨u, v, rs, hu, hv, hend, huout, hvout⟩ := halike.run n
  exact ⟨_, u, v, rs, hreset, hu, hv, hend.X, hend.C, huout, hvout,
    (exec_load_zeros _).trans hreset⟩

end Sys2Proof.Machine

/-! SUPPORT. Proofs of the family 43_state_transfer: that the snapshot determines what an engine does,
what SAVE and LOAD do, and which bytes of a snapshot reach later commands. -/

namespace Sys2Proof.Machine

/-! ### Engines with equal snapshots -/

/-- R31, R79: engines with equal snapshots and the same packets waiting differ at most in the
responses given. -/
theorem sameButResponses_of_snapshot_eq {s u : State} (h : s.snapshot = u.snapshot)
    (hin : s.inbox = u.inbox) : SameButResponses s u where
  X := by rw [← Vector.toList_inj, ← snapshot_take, ← snapshot_take, h]
  C := by rw [← Vector.toList_inj, ← snapshot_drop, ← snapshot_drop, h]
  inbox := hin

/-- Settles O34: the snapshot determines `X` and `C`, and runs keep engines alike that differ in the
responses given alone. -/
theorem equalSnapshotsEqualFutures : Obligations.EqualSnapshotsEqualFutures := by
  unfold Obligations.EqualSnapshotsEqualFutures
  intro n s u hsnap hin
  obtain ⟨t, v, rs, ht, hv, hend, htout, hvout⟩ := (sameButResponses_of_snapshot_eq hsnap hin).run n
  exact ⟨t, v, rs, ht, hv, hend.snapshot_eq, hend.inbox, htout, hvout⟩

/-! ### SAVE -/

/-- R31: the snapshot has `X[k]` at offset `k`. -/
theorem snapshot_getElem?_buffer (s : State) {k : Nat} (h : k < 48) :
    s.snapshot[k]? = some s.X[k] := by
  rw [State.snapshot, List.getElem?_append_left (by simpa using h), Vector.getElem?_toList,
    Vector.getElem?_eq_getElem]

/-- R31: the snapshot has `C[j]` at offset `48 + j`. -/
theorem snapshot_getElem?_checksum (s : State) {j : Nat} (h : j < 16) :
    s.snapshot[48 + j]? = some s.C[j] := by
  rw [← List.getElem?_drop, snapshot_drop, Vector.getElem?_toList, Vector.getElem?_eq_getElem]

/-- R54: the opcode of SAVE with a payload is no command. -/
theorem decode_save_payload {Q : List Byte} (hQ : Q ≠ []) :
    decode (0x04 :: Q) = .error (.unexpectedPayload 0x04) :=
  if_neg (mt List.length_eq_zero_iff.mp hQ)

/-- Settles O21: SAVE's next state has the snapshot as one response more, and its packet is the
opcode alone. -/
theorem saveAnswersSnapshot : Obligations.SaveAnswersSnapshot := by
  unfold Obligations.SaveAnswersSnapshot
  exact ⟨fun s => ⟨_, s.snapshot, exec_save s, rfl, rfl, rfl, rfl, snapshot_length s,
    fun _ => snapshot_getElem?_buffer s, fun _ => snapshot_getElem?_checksum s⟩, rfl,
    fun _ hQ => ⟨_, decode_save_payload hQ⟩⟩

/-! ### LOAD -/

/-- R81: the buffer read from a snapshot has at `k` the byte at offset `k`. -/
theorem snapshotBuffer_getElem {Q : List Byte} (hQ : Q.length = 64) {k : Nat} (h : k < 48) :
    (snapshotBuffer Q hQ)[k] = Q[k] :=
  List.getElem_take

/-- R81: the checksum read from a snapshot has at `j` the byte at offset `48 + j`. -/
theorem snapshotChecksum_getElem {Q : List Byte} (hQ : Q.length = 64) {j : Nat} (h : j < 16) :
    (snapshotChecksum Q hQ)[j] = Q[48 + j] :=
  List.getElem_drop

/-- Settles O22: LOAD's next state has the two parts of the payload as `X` and `C`. -/
theorem loadWritesSnapshot : Obligations.LoadWritesSnapshot := by
  unfold Obligations.LoadWritesSnapshot
  exact fun s Q hQ => ⟨_, exec_load hQ s, fun _ => snapshotBuffer_getElem hQ,
    fun _ => snapshotChecksum_getElem hQ, rfl, rfl, rfl⟩

/-- R81, R82, R87: the response of LOAD is one status byte, which the payload's length decides. -/
theorem load_outbox {Q : List Byte} {s t : State} (h : exec (.load Q) s = .next t) :
    t.outbox = s.outbox ++ [[if Q.length = 64 then 0x00 else 0x01]] := by
  by_cases hQ : Q.length = 64
  · rw [exec_load hQ] at h
    cases h
    rw [if_pos hQ, respond_outbox, setCore_outbox, code_ok]
  · rw [exec_load_other hQ, raise_eq] at h
    cases h
    rw [if_neg hQ, code_malformed]

/-- Settles O23: another length raises MALFORMED_STATE, and the status byte is that of the error for
such a length alone. -/
theorem loadOfOtherLengthFails : Obligations.LoadOfOtherLengthFails := by
  unfold Obligations.LoadOfOtherLengthFails
  refine fun s Q => ⟨fun hQ => exec_load_other hQ s, fun t h => ?_⟩
  rw [load_outbox h]
  by_cases hQ : Q.length = 64
  · simp [hQ]
  · simp [hQ]

/-- R81, R84: LOAD of the snapshot of `u` writes the `X` and `C` of `u`. -/
theorem exec_load_snapshot (u s : State) :
    exec (.load u.snapshot) s = .next ((s.setCore u.X u.C).respond .ok []) := by
  rw [exec_load (snapshot_length u), snapshotBuffer_snapshot, snapshotChecksum_snapshot]

/-- Settles O25: the length is LOAD's only test, and the payload for `X` and `C` is the snapshot of a
state that has them. -/
theorem everyStateIsLoadable : Obligations.EveryStateIsLoadable := by
  unfold Obligations.EveryStateIsLoadable
  exact ⟨fun s Q hQ => ⟨_, exec_load hQ s, rfl⟩, fun X C =>
    ⟨(State.reset.setCore X C).snapshot, snapshot_length _,
      fun s => ⟨_, exec_load_snapshot _ s, rfl, rfl⟩⟩⟩

/-- R81, R84: the snapshot of what LOAD writes is the snapshot loaded. -/
theorem snapshot_of_loaded {W : List Byte} (hW : W.length = 64) (s : State) :
    (s.setCore (snapshotBuffer W hW) (snapshotChecksum W hW)).snapshot = W := by
  rw [State.snapshot, setCore_X, setCore_C, snapshotBuffer_toList, snapshotChecksum_toList,
    List.take_append_drop]

/-- Settles O24: the two parts of a snapshot are the `X` and `C` it was made of, and a snapshot is made
of its two parts. -/
theorem saveAndLoadAreInverse : Obligations.SaveAndLoadAreInverse := by
  unfold Obligations.SaveAndLoadAreInverse
  refine ⟨fun s u => ⟨_, _, s.snapshot, exec_save s, rfl, exec_load_snapshot s u, rfl, rfl⟩,
    fun u W hW => ⟨_, _, exec_load hW u, exec_save _, ?_⟩⟩
  have hsnap : ((u.setCore (snapshotBuffer W hW) (snapshotChecksum W hW)).respond .ok []).snapshot =
      W := snapshot_of_loaded hW u
  rw [respond_outbox, code_ok, hsnap]

/-! ### The live bytes of a snapshot -/

/-- R66, R85: snapshots equal in the first 16 bytes have buffers equal in the block area. -/
theorem snapshotBuffer_take_congr {Q Q' : List Byte} (hQ : Q.length = 64) (hQ' : Q'.length = 64)
    (h : Q.take 16 = Q'.take 16) :
    (snapshotBuffer Q hQ).toList.take 16 = (snapshotBuffer Q' hQ').toList.take 16 := by
  rw [snapshotBuffer_toList, snapshotBuffer_toList, List.take_take, List.take_take]
  exact h

/-- R81, R85: snapshots equal in the last 16 bytes have equal checksums. -/
theorem snapshotChecksum_congr {Q Q' : List Byte} (hQ : Q.length = 64) (hQ' : Q'.length = 64)
    (h : Q.drop 48 = Q'.drop 48) : snapshotChecksum Q hQ = snapshotChecksum Q' hQ' := by
  rw [← Vector.toList_inj, snapshotChecksum_toList, snapshotChecksum_toList, h]

/-- R18, R20: a second writing of `X` and `C` leaves nothing of the first. -/
theorem setCore_respond_setCore (s : State) (X Y : Buffer) (C D : Checksum) (st : Status)
    (d : List Byte) :
    ((s.setCore X C).respond st d).setCore Y D = (s.respond st d).setCore Y D := rfl

/-- Settles O26: after the two LOADs, COMPRESS and FINALIZE read equal bytes only, and they write over
all others. -/
theorem liveSnapshotBytesDecide : Obligations.LiveSnapshotBytesDecide := by
  unfold Obligations.LiveSnapshotBytesDecide
  intro s Q Q' hQ hQ' htake hdrop
  have hX := snapshotBuffer_take_congr hQ hQ' htake
  have hC := snapshotChecksum_congr hQ hQ' hdrop
  refine ⟨_, _, exec_load hQ s, exec_load hQ' s,
    fun B => ⟨_, exec_compress B _, (exec_compress B _).trans ?_⟩,
    fun R hR => ⟨_, exec_finalize hR _, (exec_finalize hR _).trans ?_⟩⟩
  · simp only [setCore_respond_setCore, respond_X, respond_C, setCore_X, setCore_C, mix_congr B hX, hC]
  · simp only [setCore_respond_setCore, respond_X, respond_C, setCore_X, setCore_C,
      finalPasses_congr _ (padBlock R hR) hX, hC]

end Sys2Proof.Machine

/-! SUPPORT. Proofs of the family 60_exceptions: what a step with a packet waiting can answer, which
packets raise ILLEGAL_COMMAND, and that an error changes nothing but the two packet lists. -/

namespace Sys2Proof.Machine

/-! ### What a command and a step can answer -/

/-- R49, R50: `r` is a next state that has given one response more than `s`, with the status OK. -/
def AnswersOk (s : State) (r : Result) : Prop :=
  ∃ (t : State) (d : List Byte), r = .next t ∧ t.outbox = s.outbox ++ [0x00 :: d]

/-- R89: a well-formed command completes with OK unless it is a LOAD of a length other than 64. -/
theorem exec_answersOk {i : Instr} (hwf : i.wf = true)
    (hload : ∀ Q : List Byte, i = .load Q → Q.length = 64) (s : State) : AnswersOk s (exec i s) := by
  cases i with
  | reset => exact ⟨_, _, exec_reset s, rfl⟩
  | compress B => exact ⟨_, _, exec_compress B s, rfl⟩
  | finalize R => exact ⟨_, _, exec_finalize (of_decide_eq_true hwf) s, rfl⟩
  | save => exact ⟨_, _, exec_save s, rfl⟩
  | load Q => exact ⟨_, _, exec_load (hload Q rfl) s, rfl⟩

/-- R87, R89: a well-formed command completes with OK or raises MALFORMED_STATE. -/
theorem exec_answersOk_or_malformed {i : Instr} (hwf : i.wf = true) (s : State) :
    AnswersOk s (exec i s) ∨ exec i s = raise .malformedState s := by
  by_cases hload : ∀ Q : List Byte, i = .load Q → Q.length = 64
  · exact .inl (exec_answersOk hwf hload s)
  · push Not at hload
    obtain ⟨Q, rfl, hQ⟩ := hload
    exact .inr (exec_load_other hQ s)

/-- R86, R93: the three things a step with a packet waiting can do. A command completes with OK or
raises MALFORMED_STATE, and a packet that is no command raises ILLEGAL_COMMAND. -/
theorem step_waiting_cases {s : State} {pkt : Packet} {rest : List Packet}
    (h : s.inbox = pkt :: rest) :
    ((¬ ∃ e, decode pkt = .error e) ∧ AnswersOk s (step s)) ∨
    ((¬ ∃ e, decode pkt = .error e) ∧ step s = raise .malformedState { s with inbox := rest }) ∨
    ((∃ e, decode pkt = .error e) ∧ step s = raise .illegalCommand { s with inbox := rest }) := by
  rw [step_of_waiting h]
  cases hdec : decode pkt with
  | ok i =>
    rw [runPacket_of_decode_ok hdec]
    obtain hok | hmal := exec_answersOk_or_malformed (decode_eq_ok_iff.mp hdec).1
      { s with inbox := rest }
    · exact .inl ⟨nofun, hok⟩
    · exact .inr (.inl ⟨nofun, hmal⟩)
  | error e => exact .inr (.inr ⟨⟨e, rfl⟩, runPacket_of_decode_error hdec _⟩)

/-- Settles O28: only LOAD's meaning can raise an error, and only for another length. -/
theorem onlyLoadCanFail : Obligations.OnlyLoadCanFail := by
  unfold Obligations.OnlyLoadCanFail
  exact fun s _ hwf hload => exec_answersOk hwf hload s

/-- Settles O2: with no packet to take, the step answers the state it is given. -/
theorem idleStepHoldsState : Obligations.IdleStepHoldsState := by
  unfold Obligations.IdleStepHoldsState
  intro s h
  rw [step, takePacket_none.mpr h]

/-! ### An error has no side effect -/

/-- R90: the state after an error differs from the one before in the responses given alone. -/
theorem eq_of_raise_eq_next {err : EngineError} {s t : State} (h : raise err s = .next t) :
    t = { s with outbox := t.outbox } := by
  rw [raise_eq] at h
  cases h
  rfl

/-- Settles O27: the status byte rules out a command that completed, and what is left is an error
raised on the state without the packet. -/
theorem errorsHaveNoSideEffect : Obligations.ErrorsHaveNoSideEffect := by
  unfold Obligations.ErrorsHaveNoSideEffect
  intro s t pkt rest e hin hstep hout he
  rw [← hout]
  obtain ⟨-, u, d, hu, hok⟩ | ⟨-, hraise⟩ | ⟨-, hraise⟩ := step_waiting_cases hin
  · obtain rfl : u = t := Host.Outcome.next.inj (hu.symm.trans hstep)
    obtain ⟨rfl, -⟩ : e = 0x00 ∧ [] = d := by simpa using hout.symm.trans hok
    exact absurd rfl he
  · exact eq_of_raise_eq_next (hraise.symm.trans hstep)
  · exact eq_of_raise_eq_next (hraise.symm.trans hstep)

/-! ### The causes of ILLEGAL_COMMAND -/

/-- R88, causes 2 to 5: the opcode byte and payload of a packet that is none of the five commands. -/
def IllegalCause (op : Byte) (Q : List Byte) : Prop :=
  op = 0x00 ∨ 6 ≤ op.toNat ∨
    ((op = 0x01 ∨ op = 0x04) ∧ Q ≠ []) ∨
    (op = 0x02 ∧ Q.length ≠ 16) ∨
    (op = 0x03 ∧ 16 ≤ Q.length)

/-- R53: an opcode byte that is none of the five is a reserved one. -/
theorem reserved_of_ne {op : Byte} (h1 : op ≠ opReset) (h2 : op ≠ opCompress) (h3 : op ≠ opFinalize)
    (h4 : op ≠ opSave) (h5 : op ≠ opLoad) : op = 0x00 ∨ 6 ≤ op.toNat := by
  bv_omega

/-- R52, R88: the decoder rejects an opcode byte with a payload for causes 2 to 5 alone. -/
theorem decodeCommand_eq_error_iff {op : Byte} {Q : List Byte} :
    (∃ e, decodeCommand op Q = .error e) ↔ IllegalCause op Q := by
  unfold decodeCommand IllegalCause
  split_ifs with hreset hQ hcompress hQ hfinalize hQ hsave hQ hload
  · simp [hreset, List.length_eq_zero_iff.mp hQ]
  · exact iff_of_true ⟨_, rfl⟩ (.inr (.inr (.inl ⟨.inl hreset, mt List.length_eq_zero_iff.mpr hQ⟩)))
  · simp [hcompress, hQ]
  · exact iff_of_true ⟨_, rfl⟩ (.inr (.inr (.inr (.inl ⟨hcompress, hQ⟩))))
  · simp [hfinalize, Nat.lt_succ_of_le hQ]
  · exact iff_of_true ⟨_, rfl⟩ (.inr (.inr (.inr (.inr ⟨hfinalize, Nat.lt_of_not_le hQ⟩))))
  · simp [hsave, List.length_eq_zero_iff.mp hQ]
  · exact iff_of_true ⟨_, rfl⟩ (.inr (.inr (.inl ⟨.inr hsave, mt List.length_eq_zero_iff.mpr hQ⟩)))
  · simp [hload]
  · exact iff_of_true ⟨_, rfl⟩
      ((reserved_of_ne hreset hcompress hfinalize hsave hload).imp_right .inl)

/-- R88: the decoder rejects exactly the packets of the five causes. -/
theorem decode_eq_error_iff_cause {pkt : Packet} :
    (∃ e, decode pkt = .error e) ↔
      pkt = [] ∨ ∃ (op : Byte) (Q : List Byte), pkt = op :: Q ∧ IllegalCause op Q := by
  cases pkt with
  | nil => simp [decode]
  | cons op Q => simp [decode, decodeCommand_eq_error_iff]

/-- Settles O7: of the three answers a step can give, the one `02` is that to a packet the decoder
rejects. -/
theorem illegalCommandCauses : Obligations.IllegalCommandCauses := by
  unfold Obligations.IllegalCommandCauses
  intro s pkt rest hin
  change ∃ t, step s = .next t ∧ (_ ↔ pkt = [] ∨ ∃ op Q, pkt = op :: Q ∧ IllegalCause op Q)
  rw [← decode_eq_error_iff_cause]
  obtain ⟨hdec, t, d, hstep, hout⟩ | ⟨hdec, hstep⟩ | ⟨hdec, hstep⟩ := step_waiting_cases hin
  · exact ⟨t, hstep, by simp [hdec, hout]⟩
  · exact ⟨_, hstep, by simp [hdec]⟩
  · exact ⟨_, hstep, by simp [hdec]⟩

end Sys2Proof.Machine

/-! SUPPORT. Proofs of the family 70_reset_and_hazards: the table of the phases, and the digest that a
host gets that keeps to the protocol. -/

namespace Sys2Proof.Machine

/-! ### The table of the phases -/

/-- R105: an accepted FINALIZE leads to Finalized. -/
theorem Phase.after_finalize {R : List Byte} (hR : R.length ≤ Config.maxRemaining) (p : Phase) :
    p.after (.finalize R) = .finalized :=
  if_pos hR

/-- R105: a successful LOAD leads to Accumulating. -/
theorem Phase.after_load {Q : List Byte} (hQ : Q.length = 64) (p : Phase) :
    p.after (.load Q) = .accumulating :=
  if_pos hQ

/-- R105: a LOAD of another length leaves the phase. -/
theorem Phase.after_load_other {Q : List Byte} (hQ : Q.length ≠ 64) (p : Phase) :
    p.after (.load Q) = p :=
  if_neg hQ

/-- R105: a packet that is no command leaves the phase. -/
theorem Phase.afterPacket_of_decode_error {pkt : Packet} {e : Illegal} (h : decode pkt = .error e)
    (p : Phase) : p.afterPacket pkt = p := by
  rw [Phase.afterPacket, h]

/-- R51, R105: only a LOAD of another length answers an error, and it leaves the phase. -/
theorem Phase.after_of_error_fits {i : Instr} {e : Byte} (hfits : responseFits i [e]) (he : e ≠ 0x00)
    (p : Phase) : p.after i = p := by
  cases i with
  | reset => exact absurd (List.singleton_inj.mp hfits) he
  | compress B => exact absurd (List.singleton_inj.mp hfits) he
  | finalize R =>
    obtain ⟨d, -, hrsp⟩ := hfits
    exact absurd (List.cons.inj hrsp).1 he
  | save => rfl
  | load Q =>
    obtain ⟨-, hrsp⟩ | ⟨hQ, -⟩ := hfits
    · exact absurd (List.singleton_inj.mp hrsp) he
    · exact Phase.after_load_other hQ p

/-- R105: a packet that a step answers with an error leaves the phase. -/
theorem Phase.afterPacket_of_rejected {s t : State} {pkt : Packet} {rest : List Packet} {e : Byte}
    (hin : s.inbox = pkt :: rest) (hstep : step s = .next t) (hout : t.outbox = s.outbox ++ [[e]])
    (he : e ≠ 0x00) (p : Phase) : p.afterPacket pkt = p := by
  obtain ⟨u, rsp, hu, -, huout, hfits, -⟩ := step_response_fits hin
  obtain rfl : u = t := Host.Outcome.next.inj (hu.symm.trans hstep)
  obtain rfl : rsp = [e] := by simpa using huout.symm.trans hout
  cases hdec : decode pkt with
  | ok i => rw [Phase.afterPacket_of_decode hdec, Phase.after_of_error_fits (hfits i hdec) he]
  | error err => exact Phase.afterPacket_of_decode_error hdec p

/-- Settles O41: the table's cells one by one, and a rejected packet by the response its command
would have had. -/
theorem phaseTransitions : Obligations.PhaseTransitions := by
  unfold Obligations.PhaseTransitions
  exact ⟨fun _ => rfl, fun _ => ⟨rfl, rfl, rfl, rfl⟩, fun p _ hR => Phase.after_finalize hR p,
    fun _ => rfl, fun _ => rfl, fun p _ hQ => Phase.after_load hQ p,
    fun p _ _ _ _ _ hin hstep hout he => Phase.afterPacket_of_rejected hin hstep hout he p⟩

/-! ### A host that keeps to the protocol -/

/-- R106, R107: a host abides if each command is allowed in the phase that those before it lead to. -/
theorem abides_cons {p : Phase} {i : Instr} {is : List Instr} :
    abides p (i :: is) = true ↔ p.allows i = true ∧ abides (p.after i) is = true :=
  Bool.and_eq_true_iff

/-- R105: FINALIZE is allowed outside Finalized only. -/
theorem Phase.allows_finalize {p : Phase} {R : List Byte} :
    p.allows (.finalize R) = true ↔ p ≠ .finalized :=
  decide_eq_true_iff

/-- R105: COMPRESS is allowed outside Finalized only. -/
theorem Phase.allows_compress {p : Phase} {B : Block} :
    p.allows (.compress B) = true ↔ p ≠ .finalized :=
  decide_eq_true_iff

/-- R106, R107: the invariant of a host that loads no snapshot. Outside Finalized the state reflects
the message; in Finalized nothing is claimed, and only RESET leads on from there. -/
def Tracks (p : Phase) (M : List Byte) (s : State) : Prop := p ≠ .finalized → Reflects M s

/-- R37 (a), R106: a command other than LOAD that the protocol allows keeps the invariant, with the
phase and the message after it. -/
theorem Tracks.exec {p : Phase} {M : List Byte} {s t : State} {i : Instr} (h : Tracks p M s)
    (hwf : i.wf = true) (hload : ∀ Q : List Byte, i ≠ .load Q) (hallow : p.allows i = true)
    (hexec : exec i s = .next t) : Tracks (p.after i) (messageAfter M i) t := by
  cases i with
  | reset =>
    rw [exec_reset] at hexec
    cases hexec
    exact fun _ => reflects_nil rfl rfl
  | compress B =>
    rw [exec_compress] at hexec
    cases hexec
    exact fun _ => (h (Phase.allows_compress.mp hallow)).compress B
  | finalize R => exact fun hp => absurd (Phase.after_finalize (of_decide_eq_true hwf) p) hp
  | save =>
    rw [exec_save] at hexec
    cases hexec
    exact fun hp => (h hp).congr (respond_X ..) (respond_C ..)
  | load Q => exact absurd rfl (hload Q)

/-- R37, R106: a step on the packet of such a command takes it, gives one response and keeps the
invariant. -/
theorem Tracks.step {p : Phase} {M : List Byte} {s : State} {i : Instr} {rest : List Packet}
    (h : Tracks p M s) (hwf : i.wf = true) (hload : ∀ Q : List Byte, i ≠ .load Q)
    (hallow : p.allows i = true) (hin : s.inbox = encode i :: rest) :
    ∃ (t : State) (rsp : Packet), step s = .next t ∧ t.inbox = rest ∧
      t.outbox = s.outbox ++ [rsp] ∧ Tracks (p.after i) (messageAfter M i) t := by
  obtain ⟨t, rsp, hstep, htin, htout⟩ := step_answers_waiting hin
  have htaken : Tracks p M { s with inbox := rest } := fun hp => (h hp).congr rfl rfl
  exact ⟨t, rsp, hstep, htin, htout,
    htaken.exec hwf hload hallow ((step_encode hwf hin).symm.trans hstep)⟩

/-- R106: where FINALIZE is allowed, the step on its packet answers the digest of the message with
the remaining input. -/
theorem Tracks.step_finalize {p : Phase} {M R : List Byte} {s : State} {rest : List Packet}
    (h : Tracks p M s) (hR : R.length ≤ Config.maxRemaining)
    (hallow : p.allows (.finalize R) = true) (hin : s.inbox = encode (.finalize R) :: rest) :
    ∃ t : State, Machine.step s = .next t ∧ t.inbox = rest ∧
      t.outbox = s.outbox ++ [0x00 :: md2 (M ++ R)] := by
  obtain ⟨t, hstep, htin, htout⟩ := Machine.step_finalize hR hin
  have hdigest := (h (Phase.allows_finalize.mp hallow)).finalize hR
  exact ⟨t, hstep, htin, by rw [htout, hdigest]⟩

/-- R106, R107: from any phase and message, commands that abide by the protocol are answered once
each, and the FINALIZE at their end with the digest. -/
theorem Tracks.run {p : Phase} {M : List Byte} {s : State} (h : Tracks p M s) {is : List Instr}
    (his : ∀ i ∈ is, i.wf = true ∧ ∀ Q : List Byte, i ≠ .load Q) {R : List Byte}
    (hR : R.length ≤ Config.maxRemaining) (habides : abides p (is ++ [.finalize R]) = true)
    {rest : List Packet} (hin : s.inbox = (is ++ [Instr.finalize R]).map encode ++ rest) :
    ∃ (t : State) (rs : List Packet), Host.Core.run core (is.length + 1) s = .next t ∧
      t.inbox = rest ∧ rs.length = is.length ∧
      t.outbox = s.outbox ++ rs ++ [0x00 :: md2 (is.foldl messageAfter M ++ R)] := by
  induction is generalizing p M s with
  | nil =>
    obtain ⟨hallow, -⟩ := abides_cons.mp habides
    obtain ⟨t, hstep, htin, htout⟩ := h.step_finalize hR hallow hin
    refine ⟨t, [], run_succ_of_step hstep 0, htin, rfl, ?_⟩
    rw [htout, List.append_nil, List.foldl_nil]
  | cons i is ih =>
    obtain ⟨⟨hwf, hload⟩, his⟩ := List.forall_mem_cons.mp his
    obtain ⟨hallow, habides⟩ := abides_cons.mp habides
    obtain ⟨u, rsp, hstep, huin, huout, hu⟩ := h.step hwf hload hallow hin
    obtain ⟨t, rs, hrun, htin, hlen, htout⟩ := ih hu his habides huin
    refine ⟨t, rsp :: rs, (run_succ_of_step hstep _).trans hrun, htin, congrArg (· + 1) hlen, ?_⟩
    rw [htout, huout, List.append_assoc s.outbox, List.singleton_append, List.foldl_cons]

/-- Settles O38: zero `X` and `C` reflect the empty message, so the invariant holds in Initial, and
each command before the last FINALIZE keeps it. -/
theorem protocolGivesMd2 : Obligations.ProtocolGivesMd2 := by
  unfold Obligations.ProtocolGivesMd2
  intro s is R rest his hR habides hX hC hin
  have hstart : Tracks .initial [] s := fun _ => reflects_nil hX hC
  exact hstart.run his hR habides hin

end Sys2Proof.Machine

/-! SUPPORT. Proofs of the family other: a table word's packet, packets and digests written out in
the spec, the term the decoder never makes, the responses at power-on, and the text of a command. -/

namespace Sys2Proof.Machine

/-! ### The packet of a table word -/

/-- A table word stands for a command where its packet decodes to it. -/
theorem decodeTableWord_eq_some {nbits w : Nat} {i : Instr} :
    decodeTableWord nbits w = some i ↔ decode (tableWordPacket nbits w) = .ok i := by
  rw [decodeTableWord]
  cases decode (tableWordPacket nbits w) <;> simp [Except.toOption]

/-- Settles O3: the placed packet is the oldest one waiting, and taking it gives back the state
before. -/
theorem placedTableWordRuns : Obligations.PlacedTableWordRuns := by
  unfold Obligations.PlacedTableWordRuns
  intro s nbits w i h
  calc step (s.withFetchWord nbits w)
    _ = runPacket (tableWordPacket nbits w) s := step_of_waiting (withFetchWord_inbox s nbits w)
    _ = exec i s := runPacket_of_decode_ok (decodeTableWord_eq_some.mp h) s

/-! ### Packets written out, and the term the decoder never makes -/

/-- Settles O4: the legal packets are the bytes of the decoder's legal outcomes, and each illegal one
is read off its opcode and its length. -/
theorem writtenPacketsDecode : Obligations.WrittenPacketsDecode := by
  unfold Obligations.WrittenPacketsDecode
  have hshort : ([0x61, 0x62, 0x63] : List Byte).length ≤ 15 := by decide
  refine ⟨decode_reset, (decode_eq_compress _).mpr rfl,
    (decode_eq_finalize []).mpr ⟨Nat.zero_le 15, rfl⟩, (decode_eq_finalize _).mpr ⟨hshort, rfl⟩,
    decode_eq_save.mpr rfl, decode_load [0x00], ?_⟩
  exact ⟨rfl, rfl, rfl, rfl, rfl, rfl, rfl⟩

/-- Settles O20: 16 bytes are more than FINALIZE takes, so the term raises ILLEGAL_COMMAND. -/
theorem overlongFinalizeIsIllegal : Obligations.OverlongFinalizeIsIllegal := by
  unfold Obligations.OverlongFinalizeIsIllegal
  intro s R hR
  have hover : ¬ R.length ≤ Config.maxRemaining := Nat.not_le_of_lt hR
  rw [exec_finalize_overlong hover, raise_eq, code_illegal]

/-! ### The responses at power-on -/

/-- Settles O32: no response has been given yet. -/
theorem responsesLegalAtPowerOn : Obligations.ResponsesLegalAtPowerOn := by
  unfold Obligations.ResponsesLegalAtPowerOn ResponsesLegal
  rw [reset_outbox]
  exact List.forall_mem_nil _

/-! ### The digests of the source -/

/-- 95_test_vectors.md section 1.1, the empty message. -/
theorem md2_empty : md2 [] =
    [0x83, 0x50, 0xE5, 0xA3, 0xE2, 0x4C, 0x15, 0x3D, 0xF2, 0x27, 0x5C, 0x9F, 0x80, 0x69, 0x27, 0x73] := by
  decide +kernel

/-- 95_test_vectors.md section 1.1, `abc`. -/
theorem md2_abc : md2 [0x61, 0x62, 0x63] =
    [0xDA, 0x85, 0x3B, 0x0D, 0x3F, 0x88, 0xD9, 0x9B, 0x30, 0x28, 0x3A, 0x69, 0xE6, 0xDE, 0xD6, 0xBB] := by
  decide +kernel

/-- 95_test_vectors.md section 1.1, `hello world`. -/
theorem md2_hello_world :
    md2 [0x68, 0x65, 0x6C, 0x6C, 0x6F, 0x20, 0x77, 0x6F, 0x72, 0x6C, 0x64] =
    [0xD9, 0xCC, 0xE8, 0x82, 0xEE, 0x69, 0x0A, 0x5C, 0x1C, 0xE7, 0x0B, 0xEF, 0xF3, 0xA7, 0x8C, 0x77] := by
  decide +kernel

/-- Settles O39: each digest is run in the kernel, one lemma per message. -/
theorem knownAnswerDigests : Obligations.KnownAnswerDigests := by
  unfold Obligations.KnownAnswerDigests
  exact ⟨md2_empty, md2_abc, md2_hello_world⟩

/-! ### The text of a command -/

/-- R56: the digit written for a value is read as that value. -/
theorem hexValue_hexChar : ∀ n < 16, hexValue (hexChar n) = some n := by decide

/-- R56: a character with a value as a digit begins no comment, blank or quoted string. -/
theorem ne_mark_of_hexValue {c : Char} {n : Nat} (h : hexValue c = some n) :
    c ≠ ';' ∧ c ≠ ' ' ∧ c ≠ quoteChar := by
  have hne (m : Char) (hm : hexValue m = none) : c ≠ m := fun hcm => by
    rw [hcm, hm] at h
    cases h
  exact ⟨hne _ rfl, hne _ rfl, hne _ rfl⟩

/-- R56: two digits in a row are one byte of what `readHex` reads. -/
theorem readHex_digits (onQuote : List Char → Option (List Byte)) {c d : Char} {a b : Nat}
    (hc : hexValue c = some a) (hd : hexValue d = some b) (cs : List Char) :
    readHex onQuote (c :: d :: cs) =
      (readHex onQuote cs).map fun bs => BitVec.ofNat 8 (16 * a + b) :: bs := by
  obtain ⟨hcomment, hblank, hquote⟩ := ne_mark_of_hexValue hc
  simp [readHex, hcomment, hblank, hquote, hc, hd]

/-- A byte is put together again from its two digits. -/
theorem byte_of_digits (b : Byte) : BitVec.ofNat 8 (16 * (b.toNat / 16) + b.toNat % 16) = b := by
  rw [Nat.div_add_mod, BitVec.ofNat_toNat, BitVec.setWidth_eq]

/-- R56: the digits written for a byte, with their values. -/
theorem hexValue_byte (b : Byte) :
    hexValue (hexChar (b.toNat / 16)) = some (b.toNat / 16) ∧
    hexValue (hexChar (b.toNat % 16)) = some (b.toNat % 16) := by
  have hb : b.toNat < 256 := b.isLt
  exact ⟨hexValue_hexChar _ (by omega), hexValue_hexChar _ (by omega)⟩

/-- R56: reading the digits of a byte sequence gives the sequence. -/
theorem readHex_hexText (onQuote : List Char → Option (List Byte)) (p : List Byte) :
    readHex onQuote (hexText p) = some p := by
  induction p with
  | nil => rfl
  | cons b bs ih =>
    obtain ⟨hhigh, hlow⟩ := hexValue_byte b
    rw [hexText, readHex_digits onQuote hhigh hlow, ih, Option.map_some, byte_of_digits]

/-- R56: an operand that begins with a digit is hexadecimal. -/
theorem readOperand_blank_digit {c : Char} {n : Nat} (h : hexValue c = some n) (cs : List Char) :
    readOperand (' ' :: c :: cs) = readHex (fun _ => none) (c :: cs) := by
  obtain ⟨-, hblank, hquote⟩ := ne_mark_of_hexValue h
  simp [readOperand, hblank, hquote]

/-- R56: a blank and the digits of a byte sequence are the operand with these bytes; with no bytes it
is the blank that is passed over (log entry 10). -/
theorem readOperand_blank_hexText (p : List Byte) : readOperand (' ' :: hexText p) = some p := by
  cases p with
  | nil => rfl
  | cons b bs =>
    rw [hexText, readOperand_blank_digit (hexValue_byte b).1, ← hexText, readHex_hexText]

/-- R56: a line of a word, a blank and more is the word with what follows it. -/
theorem assembleLine_spelling_blank (w : TextWord) (cs : List Char) :
    assembleLine (w.spelling ++ ' ' :: cs) = assembleWord w (' ' :: cs) := by
  cases w <;> rfl

/-- R56: the word of a command gives one packet, its opcode and then the operand. -/
theorem assembleWord_commandWord (i : Instr) (cs : List Char) :
    assembleWord (commandWord i) cs = (readOperand cs).map fun Q => [i.opcode :: Q] := by
  cases i <;> rfl

/-- Settles O43: the line is its word with the operand after the blank, and the operand is read back
as the bytes it was written from. -/
theorem assemblerReadsCommandText : Obligations.AssemblerReadsCommandText := by
  unfold Obligations.AssemblerReadsCommandText
  refine ⟨fun i => ?_, fun p => ?_⟩
  · rw [commandText, assembleLine_spelling_blank, assembleWord_commandWord,
      readOperand_blank_hexText, Option.map_some, encode]
  · rw [assembleLine_spelling_blank, assembleWord, readOperand_blank_hexText, Option.map_some]

end Sys2Proof.Machine
